-- ==== Sys2Proof/Word.lean ====
section
/-! DEFINITION. The word types of the core and the closed enumerations its words stand for. -/

namespace Sys2Proof

/-- A byte of the carrier in which a request word is written down outside the core. -/
abbrev Byte := BitVec 8

/-- The request word `req_code[2:0]` (30_encoding.md R60). -/
abbrev Code := BitVec 3

/-- The temperature register's contents, 5 bits, unsigned (10_state.md R23). -/
abbrev Temp := BitVec 5

/-- A payload value register's contents, 35 bits (10_state.md R25). -/
abbrev PayloadWord := BitVec 35

/-- The dataB word of the temperature table, 31 bits (20_memory.md R40). -/
abbrev DataB := BitVec 31

/-- A bit count, or a bit index within a payload, 6 bits (10_state.md R25, R27). -/
abbrev Count := BitVec 6

/-- The index of a frame-program element, 4 bits (10_state.md R26). -/
abbrev StepIx := BitVec 4

/-- The two devices (00_scope.md R9). -/
inductive Device where
  | tv
  | ac
  deriving DecidableEq, Repr

/-- The four commands, in the order in which the spec lists them (30_encoding.md R60). -/
inductive Command where
  | powerOn
  | powerOff
  | plus
  | minus
  deriving DecidableEq, Repr

/-- The active frame program, the register `proto` (10_state.md R26). -/
inductive Protocol where
  /-- `proto` = 0: `NEC_PROG`. -/
  | nec
  /-- `proto` = 1: `AC_PROG`. -/
  | ac
  deriving DecidableEq, Repr

/-- The two payload slots (10_state.md R25). -/
inductive Slot where
  | p0
  | p1
  deriving DecidableEq, Repr

/-- One segment of the output trace (00_scope.md R13); durations in µs. -/
inductive Segment where
  /-- The carrier enabled for `us` µs. -/
  | mark (us : Nat)
  /-- The carrier disabled for `us` µs. -/
  | space (us : Nat)
  /-- The end of a transmission: the line inactive, with no fixed duration. -/
  | release
  deriving DecidableEq, Repr

/-- One element of a frame program (00_scope.md R15). -/
inductive Element where
  /-- `MARK d`. -/
  | mark (us : Nat)
  /-- `SPACE d`. -/
  | space (us : Nat)
  /-- `ENC Pk`. -/
  | enc (slot : Slot)
  /-- `END`. -/
  | finish
  deriving DecidableEq, Repr

end Sys2Proof
end

