-- ==== Sys2Proof/Config.lean ====
section
/-! DEFINITION. What the spec leaves open and the model takes as free values (00_scope.md R10). -/

namespace Sys2Proof

/-- The temperature-table words that the source does not give (00_scope.md R10, 92_eei_decisions.md D10). -/
structure TempParams where
  /-- `TEMP_A(26 + i)`, the dataA word at 26 to 29. -/
  tempA : Fin 4 → PayloadWord
  /-- `TEMP_B(16 + i)`, the dataB word; the entry at `i = 7` (23 degrees) is known and is not read from here. -/
  tempB : Fin 15 → DataB

/-- The free temperature-table words: any choice that meets the constraint `ok`, and nothing else is known of it.
The widths bound the values; `ok` is the pairwise distinctness of 44_command_lookup.md R138, which
Machine/TempTable.lean passes. It has no body: what it holds cannot be proved. Log 1, safe. -/
opaque Config.tempParams (ok : TempParams → Prop) [Inhabited { p : TempParams // ok p }] :
    { p : TempParams // ok p }

/-- `CLK_HZ`: the clock frequency of a cycle-level realisation, in Hz (00_scope.md R10, 92_eei_decisions.md D4). Free but
for being positive; only the time-level form reads it. Log 12, safe for the value. -/
opaque Config.clkHz : PNat

/-- `ACCEPT_LATENCY`: the time from acceptance to the start of the first mark (00_scope.md R10,
92_eei_decisions.md D6), in clock cycles, since both stand at clock edges. Free; only the time-level form reads it.
Log 2, safe. -/
opaque Config.acceptLatency : Nat

end Sys2Proof
end

