-- ==== Sys2Proof/Machine/State.lean ====
section
/-! DEFINITION. The core's state, the reasons a model of it stops, and the state after reset. -/

namespace Sys2Proof.Machine

/-- What drives the input ports `rst`, `req_valid` and `req_code` (10_state.md R20). Log 4. -/
inductive Stimulus where
  /-- An upstream that keeps the contract: `req_valid` = 1 and this `req_code`, held until the edge that accepts it
  (10_state.md R29, 70_reset_and_hazards.md R176); `rst` = 0 meanwhile. -/
  | request (code : Code)
  /-- These port levels for exactly one clock edge: a reset, or a request that is withdrawn or changed. -/
  | level (rst valid : Bool) (code : Code)
  deriving DecidableEq, Repr

/-- The core's state: every register of 10_state.md, the observer's segment trace, and the input script. -/
structure State where
  /-- A frame is in progress (R21). -/
  busy : Bool
  /-- The output line: true during a mark (R22). -/
  irGate : Bool
  /-- The temperature register (R23). -/
  temp : Temp
  /-- First payload value (R25). -/
  p0Val : PayloadWord
  /-- Its bit count (R25). -/
  p0Cnt : Count
  /-- Second payload value (R25). -/
  p1Val : PayloadWord
  /-- Its bit count (R25). -/
  p1Cnt : Count
  /-- The active frame program (R26). -/
  proto : Protocol
  /-- The index of the element being executed (R26). -/
  step : StepIx
  /-- The index of the payload bit being sent (R27). -/
  bitIdx : Count
  /-- The mark of that bit has been sent, its space is due (R27). -/
  half : Bool
  /-- The time left in the current segment, in clock cycles (µs at 1 MHz); time level only (R28, which fixes no width in
  cycles). Log 12. -/
  remain : Nat
  /-- The part of `ACCEPT_LATENCY` still to pass, in clock cycles; time level only (40_pulse_generator.md R84). Log 3. -/
  latencyLeft : Nat
  /-- The output trace of the current request, oldest segment first (00_scope.md R13). Log 6. -/
  trace : List Segment
  /-- What will drive the input ports, the present edge first. Log 4. -/
  inputs : List Stimulus
  deriving DecidableEq, Repr

/-- The core raises no exception and has no error output (60_exceptions.md R150), so there is no fault. -/
inductive Fault where
  deriving DecidableEq, Repr

/-- Why the model gives a step no meaning. All but the first are raised only in states that no run from reset
reaches, where the spec says that a model refuses; each is safe. -/
inductive Refusal where
  /-- A request without a meaning; no arm of `exec` raises it now. Safe. -/
  | notModelled (mnemonic : String)
  /-- `TEMP_MAP` is given a temperature outside 16..30 (92_eei_decisions.md D31): raised by `AC.PLUS` and
  `AC.MINUS`. Safe. Log 8. -/
  | tempOutOfRange
  /-- `SerStep` is given a bit count above 35 (41_bitstream_serializer.md R94): raised by the sequencer. Safe. Log 9. -/
  | countAbove35
  /-- `PROG_ROM` holds no element at `{proto, step}` (20_memory.md R40): raised by the sequencer. Safe. Log 9. -/
  | noElement
  deriving DecidableEq, Repr

/-- What a step or a meaning answers. -/
abbrev Result := Host.Outcome State Fault Refusal

/-- The core right after reset (10_state.md R34, 70_reset_and_hazards.md R170): `temp` = 22, idle, line inactive, the
hidden registers 0. `remain`, `latencyLeft`, `trace` and `inputs` are the model's choice (log 3, 4, 6). -/
def State.reset : State where
  busy := false
  irGate := false
  temp := 22#5
  p0Val := 0#35
  p0Cnt := 0#6
  p1Val := 0#35
  p1Cnt := 0#6
  proto := .nec
  step := 0#4
  bitIdx := 0#6
  half := false
  remain := 0
  latencyLeft := 0
  trace := []
  inputs := []

end Sys2Proof.Machine
end

