-- ==== Sys2Proof/Machine/Flags.lean ====
section
/-! DEFINITION. The core's ports as functions of its state (10_state.md R20, R30, R31). The core has no flags but `busy`
and its complement. -/

namespace Sys2Proof.Machine

/-- The level of the reset port at this edge. -/
def State.rst (s : State) : Bool :=
  match s.inputs with
  | [] => false
  | .request _ :: _ => false
  | .level r _ _ :: _ => r

/-- The level of `req_valid` at this edge. -/
def State.reqValid (s : State) : Bool :=
  match s.inputs with
  | [] => false
  | .request _ :: _ => true
  | .level _ v _ :: _ => v

/-- The word on `req_code` at this edge. -/
def State.reqCode (s : State) : Code :=
  match s.inputs with
  | [] => 0#3
  | .request c :: _ => c
  | .level _ _ c :: _ => c

/-- `req_ready` = not `busy`, at all times (10_state.md R30). -/
def State.reqReady (s : State) : Bool := !s.busy

/-- `temp_o` always equals `temp` (10_state.md R31). -/
def State.tempO (s : State) : Temp := s.temp

/-- The levels of the four output ports (10_state.md R20). -/
structure Outputs where
  reqReady : Bool
  busy : Bool
  irGate : Bool
  tempO : Temp
  deriving DecidableEq, Repr

/-- What is visible from outside (10_state.md R20, R33). -/
def State.outputs (s : State) : Outputs := ⟨s.reqReady, s.busy, s.irGate, s.tempO⟩

end Sys2Proof.Machine
end

