-- ==== Sys2Proof/Syntax.lean ====
section
/-! DEFINITION. The eight requests: one constructor per row of spec/opcode_table.json. -/

namespace Sys2Proof

/-- The core's instructions: its eight requests, which have no operands (00_scope.md R3, 30_encoding.md R62). -/
inductive Instr where
  /-- `TV.POWER_ON`, code 0. -/
  | tvPowerOn
  /-- `TV.POWER_OFF`, code 1. -/
  | tvPowerOff
  /-- `TV.PLUS`, code 2. -/
  | tvPlus
  /-- `TV.MINUS`, code 3. -/
  | tvMinus
  /-- `AC.POWER_ON`, code 4. -/
  | acPowerOn
  /-- `AC.POWER_OFF`, code 5. -/
  | acPowerOff
  /-- `AC.PLUS`, code 6. -/
  | acPlus
  /-- `AC.MINUS`, code 7. -/
  | acMinus
  deriving DecidableEq, Repr

end Sys2Proof
end

