-- ==== Sys2Proof/WellFormed.lean ====
section
/-! DEFINITION. Which terms of the model's syntax the hardware can hold. -/

namespace Sys2Proof

/-- Every request is valid: no code is reserved or illegal (30_encoding.md R61). -/
def Instr.wellFormed (_ : Instr) : Bool := true

/-- A frame-program element fits `PROG_ROM`: its duration has 17 bits (30_encoding.md R68) and is not 0
(40_pulse_generator.md R80, R81). -/
def Element.wellFormed : Element → Bool
  | .mark d => decide (0 < d) && decide (d < 2 ^ 17)
  | .space d => decide (0 < d) && decide (d < 2 ^ 17)
  | .enc _ => true
  | .finish => true

/-- A frame program fits the 4-bit `step`, its elements are well formed, and it has exactly one `END`, the last
element (10_state.md R26, 00_scope.md R15). -/
def programWellFormed (p : List Element) : Bool :=
  decide (p.length ≤ 16) && p.all Element.wellFormed &&
    decide (p.getLast? = some .finish) && p.dropLast.all fun e => !decide (e = .finish)

/-- A bit count the payload registers may hold (41_bitstream_serializer.md R94). -/
def countLegal (n : Count) : Bool := decide (n.toNat ≤ 35)

/-- A temperature the register may hold (10_state.md R24). -/
def tempLegal (t : Temp) : Bool := decide (16 ≤ t.toNat) && decide (t.toNat ≤ 30)

/-- A payload word has no bit at or above its bit count (44_command_lookup.md R139). -/
def payloadFits (v : PayloadWord) (n : Count) : Bool := decide (v.toNat < 2 ^ n.toNat)

end Sys2Proof
end

