-- ==== Sys2Proof/Decode.lean ====
section
/-! DEFINITION. The request decoder and encoder, the frame-program element encoding, and the assembler syntax. -/

namespace Sys2Proof

/-! ### The request word (30_encoding.md R60 to R63) -/

/-- The field `dev`, bit 2: 0 = TV, 1 = AC (30_encoding.md R60). -/
def devField (c : Code) : Device := if c.getLsbD 2 then .ac else .tv

/-- The field `cmd`, bits 1..0, in listed order (30_encoding.md R60). -/
def cmdField (c : Code) : Command :=
  match c.getLsbD 1, c.getLsbD 0 with
  | false, false => .powerOn
  | false, true => .powerOff
  | true, false => .plus
  | true, true => .minus

/-- The request that a device and a command name (30_encoding.md R62). -/
def Instr.ofRequest : Device → Command → Instr
  | .tv, .powerOn => .tvPowerOn
  | .tv, .powerOff => .tvPowerOff
  | .tv, .plus => .tvPlus
  | .tv, .minus => .tvMinus
  | .ac, .powerOn => .acPowerOn
  | .ac, .powerOff => .acPowerOff
  | .ac, .plus => .acPlus
  | .ac, .minus => .acMinus

/-- The decoder of the request port: `device = dev`, `command = cmd`, total, with no error outcome
(30_encoding.md R60, R61). -/
def decodeReq (c : Code) : Instr := Instr.ofRequest (devField c) (cmdField c)

/-- The device a request names. -/
def Instr.device : Instr → Device
  | .tvPowerOn | .tvPowerOff | .tvPlus | .tvMinus => .tv
  | .acPowerOn | .acPowerOff | .acPlus | .acMinus => .ac

/-- The command a request names. -/
def Instr.command : Instr → Command
  | .tvPowerOn | .acPowerOn => .powerOn
  | .tvPowerOff | .acPowerOff => .powerOff
  | .tvPlus | .acPlus => .plus
  | .tvMinus | .acMinus => .minus

/-- The bit of `dev` that stands for a device. -/
def devBits : Device → BitVec 1
  | .tv => 0#1
  | .ac => 1#1

/-- The bits of `cmd` that stand for a command. -/
def cmdBits : Command → BitVec 2
  | .powerOn => 0b00#2
  | .powerOff => 0b01#2
  | .plus => 0b10#2
  | .minus => 0b11#2

/-- The encoder: `req_code = {dev, cmd}` (30_encoding.md R60). -/
def encode (i : Instr) : Code := devBits i.device ++ cmdBits i.command

/-! ### A request word written in bytes

The port carries three bits and no bytes; the opcode table writes a row's word in one byte. Log 10. -/

/-- Why bytes are no request word. -/
inductive DecodeError where
  /-- There is no byte to read a request from. -/
  | noByte
  /-- One of bits 7..3 is 1: the request word has three bits only (30_encoding.md R63). -/
  | moreThanThreeBits
  deriving DecidableEq, Repr

/-- What the byte decoder answers: a request and the bytes after it, or a named rejection. -/
inductive Decoded where
  | instr (i : Instr) (rest : List Byte)
  | rejected (e : DecodeError)
  deriving DecidableEq, Repr

/-- The decoder on bytes: one byte, the request word in bits 2..0 and bits 7..3 all 0. -/
def decodeBytes : List Byte → Decoded
  | [] => .rejected .noByte
  | b :: rest =>
    if b.toNat < 8 then .instr (decodeReq (b.setWidth 3)) rest else .rejected .moreThanThreeBits

/-- The byte in which an encoded request is written. -/
def encodeBytes (i : Instr) : List Byte := [(encode i).setWidth 8]

/-- The first `k` bytes of `w`, the low byte first. -/
def wordBytes : Nat → Nat → List Byte
  | 0, _ => []
  | k + 1, w => BitVec.ofNat 8 w :: wordBytes k (w / 256)

/-- The request that the decoder reads from `nbits` bits `w`, numbered as spec/opcode_table.json numbers them. -/
def decodeTableWord (nbits w : Nat) : Option Instr :=
  match decodeBytes (wordBytes ((nbits + 7) / 8) w) with
  | .instr i [] => some i
  | .instr _ (_ :: _) => none
  | .rejected _ => none

/-! ### Frame-program elements (30_encoding.md R68) -/

/-- The element's field `kind[1:0]`. -/
def Element.kind : Element → BitVec 2
  | .mark _ => 0b00#2
  | .space _ => 0b01#2
  | .enc _ => 0b10#2
  | .finish => 0b11#2

/-- The element's argument, held in a field as wide as the widest argument (17 bits). Log 19. -/
def Element.argument : Element → BitVec 17
  | .mark d => BitVec.ofNat 17 d
  | .space d => BitVec.ofNat 17 d
  | .enc .p0 => 0#17
  | .enc .p1 => 1#17
  | .finish => 0#17

/-- The element that a `kind` and an argument stand for: `ENC` reads one bit of the argument, `END` none. -/
def decodeElement (kind : BitVec 2) (arg : BitVec 17) : Element :=
  match kind.getLsbD 1, kind.getLsbD 0 with
  | false, false => .mark arg.toNat
  | false, true => .space arg.toNat
  | true, false => .enc (if arg.getLsbD 0 then .p1 else .p0)
  | true, true => .finish

/-! ### Assembler syntax (30_encoding.md R64, R65) -/

/-- The request's name, `<DEVICE>.<COMMAND>`. -/
def Instr.mnemonic : Instr → String
  | .tvPowerOn => "TV.POWER_ON"
  | .tvPowerOff => "TV.POWER_OFF"
  | .tvPlus => "TV.PLUS"
  | .tvMinus => "TV.MINUS"
  | .acPowerOn => "AC.POWER_ON"
  | .acPowerOff => "AC.POWER_OFF"
  | .acPlus => "AC.PLUS"
  | .acMinus => "AC.MINUS"

/-- The names the assembler knows: the eight requests and the pseudo-request `TV.TOGGLE`, which expands to
`TV.POWER_ON` (30_encoding.md R65). -/
def assemblerNames : List (List Char × Instr) :=
  [("TV.POWER_ON".toList, .tvPowerOn), ("TV.POWER_OFF".toList, .tvPowerOff), ("TV.PLUS".toList, .tvPlus),
    ("TV.MINUS".toList, .tvMinus), ("AC.POWER_ON".toList, .acPowerOn), ("AC.POWER_OFF".toList, .acPowerOff),
    ("AC.PLUS".toList, .acPlus), ("AC.MINUS".toList, .acMinus), ("TV.TOGGLE".toList, .tvPowerOn)]

/-- What the assembler answers for one line. -/
inductive AsmLine where
  /-- A blank line, or a comment only. -/
  | blank
  | request (i : Instr)
  /-- No name of a request. -/
  | unknown
  deriving DecidableEq, Repr

/-- A character that stands between tokens. Log 18. -/
def isBlank (ch : Char) : Bool := decide (ch = ' ') || decide (ch = '\t')

/-- A line's text: without the comment that `;` starts, and without blanks at either end. -/
def lineText (line : List Char) : List Char :=
  (((line.takeWhile fun ch => !decide (ch = ';')).dropWhile isBlank).reverse.dropWhile isBlank).reverse

/-- Assemble one line (30_encoding.md R64). -/
def assembleLine (line : List Char) : AsmLine :=
  match lineText line with
  | [] => .blank
  | text =>
    match assemblerNames.lookup text with
    | some i => .request i
    | none => .unknown

/-- Assemble a program: a list of requests, one per line, in order; none if a line names no request. -/
def assemble : List (List Char) → Option (List Instr)
  | [] => some []
  | line :: rest =>
    match assembleLine line with
    | .blank => assemble rest
    | .request i => (assemble rest).map (i :: ·)
    | .unknown => none

end Sys2Proof
end

