-- ==== Sys2Proof/Machine/Signal.lean ====
section
/-! DEFINITION. Segments and their times, the symbol code, and the two frames as pure functions
(00_scope.md R12, R13; 30_encoding.md R66; 41_bitstream_serializer.md R90; 42_ac_framer.md R101; 43_nec_framer.md R111). -/

namespace Sys2Proof

/-- `bit(v, i) = (v >> i) & 1`, for every natural number `i` (00_scope.md R12). -/
def bit (v i : Nat) : Bool := v.testBit i

/-- How many of the bits 0 .. n-1 of `v` are 1: popcount(v mod 2^n). -/
def popcount (v n : Nat) : Nat := ((List.range n).filter fun i => bit v i).length

/-- A segment's duration in µs; the released line is not part of a frame and counts 0 (40_pulse_generator.md R82). -/
def Segment.duration : Segment → Nat
  | .mark d => d
  | .space d => d
  | .release => 0

/-- A duration of `d` µs in cycles of a clock of `clkHz` Hz (10_state.md R28). It is exact where that is a whole number, as
at 1 MHz, where a cycle is a µs; elsewhere it is rounded up. DESIGN CHOICE: the spec names no rounding, and what it
adds is timing error against `DUR_TOL` (40_pulse_generator.md R84, R85). Log 12, unsafe where it rounds. -/
def cyclesOf (clkHz d : Nat) : Nat :=
  d * clkHz / 1000000 + if d * clkHz % 1000000 = 0 then 0 else 1

/-- The segment with its duration in clock cycles. -/
def Segment.inCycles (clkHz : Nat) : Segment → Segment
  | .mark d => .mark (cyclesOf clkHz d)
  | .space d => .space (cyclesOf clkHz d)
  | .release => .release

/-- The longest segment of any frame (10_state.md R28). -/
def longestSegment : Nat := 96293

/-- The level of the output line during a segment (40_pulse_generator.md R80 to R82). -/
def Segment.level : Segment → Bool
  | .mark _ => true
  | .space _ => false
  | .release => false

/-- The segment is a mark. -/
def Segment.isMark : Segment → Bool
  | .mark _ => true
  | .space _ => false
  | .release => false

/-- The segment is a space. -/
def Segment.isSpace : Segment → Bool
  | .mark _ => false
  | .space _ => true
  | .release => false

/-- The time from the start of the first segment to the end of the last, in µs (40_pulse_generator.md R84). -/
def totalDuration (l : List Segment) : Nat := (l.map Segment.duration).sum

/-- The time the line is active. -/
def markTime (l : List Segment) : Nat := totalDuration (l.filter Segment.isMark)

/-- The time the line is inactive within the frame. -/
def spaceTime (l : List Segment) : Nat := totalDuration (l.filter Segment.isSpace)

/-- The mark of every symbol (30_encoding.md R66). -/
def symbolMark : Nat := 560

/-- The space of a symbol: 1680 µs for a 1, 560 µs for a 0 (30_encoding.md R66). -/
def symbolSpace (b : Bool) : Nat := if b then 1680 else 560

/-- The symbol of one payload bit (30_encoding.md R66). -/
def symbol (b : Bool) : List Segment := [.mark symbolMark, .space (symbolSpace b)]

/-- `ENCODE(v, n)`: the symbols of the low `n` bits of `v`, bit 0 first (41_bitstream_serializer.md R90). DESIGN CHOICE: R90
gives it for `n` up to 35 only, and the same list of `2n` segments is answered for every larger `n` here; it is the
serializer's step that refuses such a count, as R94 asks. Log 26, safe. -/
def encodeBits (v n : Nat) : List Segment := (List.range n).flatMap fun i => symbol (bit v i)

/-- `AC_FRAME(a, na, b, nb)` (42_ac_framer.md R101). For a count above 35 it is the model's choice, as in `encodeBits`
(log 26). -/
def acFrame (a na b nb : Nat) : List Segment :=
  [.mark 8992, .space 4496] ++ encodeBits a na
    ++ [.mark 560, .space 20654, .mark 560, .space 1680] ++ encodeBits b nb
    ++ [.mark 560, .release]

/-- `NEC_FRAME(a, na, c, nc)` (43_nec_framer.md R111). For a count above 35 it is the model's choice, as in `encodeBits`
(log 26). -/
def necFrame (a na c nc : Nat) : List Segment :=
  [.mark 8992, .space 4496] ++ encodeBits a na ++ encodeBits c nc
    ++ [.mark 560, .space 41425, .mark 8992, .space 2250, .mark 560, .space 96293,
        .mark 8992, .space 2250, .mark 562, .release]

/-- The level at time `t` after the first segment starts, in the unit of the durations (40_pulse_generator.md R84). -/
def levelAt : List Segment → Nat → Bool
  | [], _ => false
  | g :: rest, t => if t < g.duration then g.level else levelAt rest (t - g.duration)

/-- `ir_gate` at time `t` after acceptance: 0 during the latency, then the segments, then 0
(40_pulse_generator.md R84). -/
def gateAt (latency : Nat) (l : List Segment) (t : Nat) : Bool :=
  if t < latency then false else levelAt l (t - latency)

/-- `busy` at time `t` after acceptance: it falls when the last mark ends (40_pulse_generator.md R84). -/
def busyAt (latency : Nat) (l : List Segment) (t : Nat) : Bool := decide (t < latency + totalDuration l)

/-- The receiver's reading of a space, the test oracle of 00_scope.md R8: a 1 for 1680 µs, a 0 for 560 µs. DESIGN CHOICE:
it reads nothing from any other space, from a mark, or from the released line, of which the spec says nothing. Log 23,
safe. -/
def spaceBit : Segment → Option Bool
  | .mark _ => none
  | .space d => if d = 1680 then some true else if d = 560 then some false else none
  | .release => none

/-- The receiver's decoding of a run of symbols: the i-th space gives bit i (41_bitstream_serializer.md R96). DESIGN CHOICE:
it answers `none` for a list of odd length, for a mark of other than 560 µs, or for a space that `spaceBit` does not
read; R96 reads only the spaces, of 1680 µs and 560 µs, and 00_scope.md R8 is silent on other inputs. Log 23, safe. -/
def decodeSymbols : List Segment → Option Nat
  | [] => some 0
  | [_] => none
  | m :: s :: rest =>
    if m = .mark symbolMark then
      match spaceBit s, decodeSymbols rest with
      | some b, some v => some (2 * v + b.toNat)
      | _, _ => none
    else none

end Sys2Proof
end

