-- ==== Sys2Proof/Machine/Program.lean ====
section
/-! DEFINITION. `PROG_ROM`: the two frame programs (20_memory.md R40, 42_ac_framer.md R100, 43_nec_framer.md R110). -/

namespace Sys2Proof

/-- `AC_PROG` (42_ac_framer.md R100). -/
def acProg : List Element :=
  [.mark 8992, .space 4496, .enc .p0, .mark 560, .space 20654, .mark 560, .space 1680, .enc .p1, .mark 560, .finish]

/-- `NEC_PROG` (43_nec_framer.md R110). -/
def necProg : List Element :=
  [.mark 8992, .space 4496, .enc .p0, .enc .p1, .mark 560, .space 41425, .mark 8992, .space 2250, .mark 560,
    .space 96293, .mark 8992, .space 2250, .mark 562, .finish]

/-- The frame program that `proto` selects (10_state.md R26). -/
def program : Protocol → List Element
  | .nec => necProg
  | .ac => acProg

/-- `RomRead(PROG_ROM, {proto, step})`; none at the step values that hold no element (20_memory.md R40). -/
def progRom (p : Protocol) (ix : StepIx) : Option Element := (program p)[ix.toNat]?

end Sys2Proof
end

