-- ==== Sys2Proof/Machine/TempTable.lean ====
section
/-! DEFINITION. `TEMP_ROM` and the temperature mapper (20_memory.md R40, 44_command_lookup.md R123 to R125, R138). -/

namespace Sys2Proof

/-- The dataA pattern (44_command_lookup.md R123). -/
def dataAPattern (t : Nat) : PayloadWord := BitVec.ofNat 35 (0x250200000 + (t - 16) * 0x100 + 0x79)

/-- The dataA word at key `k`: the pattern at 16..25 and 30, `TEMP_A` at 26..29 (44_command_lookup.md R124). -/
def TempParams.dataA (p : TempParams) (k : Fin 15) : PayloadWord :=
  if h : 10 ≤ k.val ∧ k.val ≤ 13 then p.tempA ⟨k.val - 10, by omega⟩ else dataAPattern (16 + k.val)

/-- The dataB word at key `k`: the literal at 23 degrees, `TEMP_B` elsewhere (44_command_lookup.md R124). -/
def TempParams.dataB (p : TempParams) (k : Fin 15) : DataB :=
  if k.val = 7 then 0x68001008#31 else p.tempB k

/-- The 15 pairs are pairwise distinct (44_command_lookup.md R138). -/
def TempParams.PairsDistinct (p : TempParams) : Prop :=
  ∀ i j : Fin 15, i ≠ j → (p.dataA i, p.dataB i) ≠ (p.dataA j, p.dataB j)

/-- Some words that meet R138, which shows only that the constraint can be met: the core's table is not these. -/
def somePairs : TempParams where
  tempA i := BitVec.ofNat 35 i.val
  tempB _ := 0#31

theorem somePairs_distinct : somePairs.PairsDistinct := by
  unfold TempParams.PairsDistinct; decide

/-- The core's temperature-table words: free but for R138. Log 1. -/
def tempTable : { p : TempParams // p.PairsDistinct } :=
  @Config.tempParams TempParams.PairsDistinct ⟨⟨somePairs, somePairs_distinct⟩⟩

/-- An entry of `TEMP_ROM` (20_memory.md R40). -/
structure TempEntry where
  dataA : PayloadWord
  dataB : DataB
  deriving DecidableEq, Repr

/-- `RomRead(TEMP_ROM, key)`: 15 entries; key 15 has none (20_memory.md R40). -/
def tempRom (key : BitVec 4) : Option TempEntry :=
  if h : key.toNat < 15 then
    some ⟨tempTable.val.dataA ⟨key.toNat, h⟩, tempTable.val.dataB ⟨key.toNat, h⟩⟩
  else none

/-- `TEMP_MAP(t)` for `t` in 16..30 (44_command_lookup.md R125); any other value is refused
(92_eei_decisions.md D31). -/
def tempMap (t : Temp) : Option TempEntry :=
  if 16 ≤ t.toNat ∧ t.toNat ≤ 30 then tempRom (BitVec.ofNat 4 (t.toNat - 16)) else none

/-- `sat_inc(t) = min(t + 1, 30)`, on integers (44_command_lookup.md R126). -/
def satInc (t : Temp) : Temp := BitVec.ofNat 5 (min (t.toNat + 1) 30)

/-- `sat_dec(t) = max(t - 1, 16)`, on integers (44_command_lookup.md R126). -/
def satDec (t : Temp) : Temp := BitVec.ofNat 5 (max (t.toNat - 1) 16)

end Sys2Proof
end

