-- ==== Sys2Proof/Machine/Operands.lean ====
section
/-! DEFINITION. What a request works on: `PAYLOAD_ROM`, LOOKUP and DISPATCH (44_command_lookup.md R120 to R122, R128). -/

namespace Sys2Proof

/-- A selected framer and its two payload tuples (44_command_lookup.md R120; 20_memory.md R40). -/
structure Payloads where
  proto : Protocol
  v0 : PayloadWord
  n0 : Count
  v1 : PayloadWord
  n1 : Count
  deriving DecidableEq, Repr

/-- The entry of code 0 (44_command_lookup.md R122). -/
def romTvPowerOn : Payloads := ⟨.nec, 0x7F00#35, 16#6, 0xF50A#35, 16#6⟩

/-- The entry of code 1 (44_command_lookup.md R122). -/
def romTvPowerOff : Payloads := ⟨.nec, 0x7F00#35, 16#6, 0xF50A#35, 16#6⟩

/-- The entry of code 2 (44_command_lookup.md R122). -/
def romTvPlus : Payloads := ⟨.nec, 0x7F00#35, 16#6, 0xA758#35, 16#6⟩

/-- The entry of code 3 (44_command_lookup.md R122). -/
def romTvMinus : Payloads := ⟨.nec, 0x7F00#35, 16#6, 0xA45B#35, 16#6⟩

/-- The entry of code 4 (44_command_lookup.md R122). -/
def romAcPowerOn : Payloads := ⟨.ac, 0x250200659#35, 35#6, 0x60001008#35, 31#6⟩

/-- The entry of code 5 (44_command_lookup.md R122). -/
def romAcPowerOff : Payloads := ⟨.ac, 0x250200651#35, 35#6, 0x20001008#35, 31#6⟩

/-- `RomRead(PAYLOAD_ROM, code)`: codes 6 and 7 have no entry (20_memory.md R40, 44_command_lookup.md R122). -/
def payloadRom (c : Code) : Option Payloads :=
  match decodeReq c with
  | .tvPowerOn => some romTvPowerOn
  | .tvPowerOff => some romTvPowerOff
  | .tvPlus => some romTvPlus
  | .tvMinus => some romTvMinus
  | .acPowerOn => some romAcPowerOn
  | .acPowerOff => some romAcPowerOff
  | .acPlus => none
  | .acMinus => none

/-- The payloads that carry a temperature-table entry, always with counts 35 and 31 (44_command_lookup.md R125). -/
def tempPayloads (e : TempEntry) : Payloads := ⟨.ac, e.dataA, 35#6, e.dataB.setWidth 35, 31#6⟩

/-- `LOOKUP(code, t)`: the framer, the payloads and the new temperature (44_command_lookup.md R120), written as a match
over (device, command) with no wildcard (R129). None only where `TEMP_MAP` refuses (92_eei_decisions.md D31). -/
def lookup (d : Device) (c : Command) (t : Temp) : Option (Payloads × Temp) :=
  match d, c with
  | .tv, .powerOn => some (romTvPowerOn, t)
  | .tv, .powerOff => some (romTvPowerOff, t)
  | .tv, .plus => some (romTvPlus, t)
  | .tv, .minus => some (romTvMinus, t)
  | .ac, .powerOn => some (romAcPowerOn, t)
  | .ac, .powerOff => some (romAcPowerOff, t)
  | .ac, .plus => (tempMap (satInc t)).map fun e => (tempPayloads e, satInc t)
  | .ac, .minus => (tempMap (satDec t)).map fun e => (tempPayloads e, satDec t)

/-- The frame that payloads stand for (44_command_lookup.md R121). -/
def frameOf (p : Payloads) : List Segment :=
  match p.proto with
  | .ac => acFrame p.v0.toNat p.n0.toNat p.v1.toNat p.n1.toNat
  | .nec => necFrame p.v0.toNat p.n0.toNat p.v1.toNat p.n1.toNat

/-- `DISPATCH(code, t)`: the request's segment list and the new temperature (44_command_lookup.md R121). -/
def dispatch (i : Instr) (t : Temp) : Option (List Segment × Temp) :=
  (lookup i.device i.command t).map fun r => (frameOf r.1, r.2)

/-- `SEGS(code, t)`, the request's whole output trace (44_command_lookup.md R128); empty where `TEMP_MAP` refuses. -/
def segs (i : Instr) (t : Temp) : List Segment := ((dispatch i t).map Prod.fst).getD []

/-- The temperature after a request (44_command_lookup.md R120): only `AC.PLUS` and `AC.MINUS` change it. -/
def tempAfter (t : Temp) (i : Instr) : Temp := ((dispatch i t).map Prod.snd).getD t

end Sys2Proof
end

