-- ==== Sys2Proof/Machine/Ops.lean ====
section
/-! DEFINITION. The shared operations on the state: the pulse generator's primitives, acceptance, reset, and what drives
the ports at the next edge. The core takes no exception and returns from none (60_exceptions.md R150, R155), so there is
no such operation; reset is the one event that cuts a frame short. -/

namespace Sys2Proof.Machine

/-- `emit(s)`: append a segment to the output trace of the current request (00_scope.md R13). -/
def State.emit (g : Segment) (s : State) : State := { s with trace := s.trace ++ [g] }

/-- `emit_mark(d)` (40_pulse_generator.md R80). -/
def State.emitMark (d : Nat) (s : State) : State := { s.emit (.mark d) with irGate := true }

/-- `emit_space(d)` (40_pulse_generator.md R81). -/
def State.emitSpace (d : Nat) (s : State) : State := { s.emit (.space d) with irGate := false }

/-- `release()` (40_pulse_generator.md R82); the caller clears `busy`. -/
def State.release (s : State) : State := { s.emit .release with irGate := false }

/-- The load of acceptance (44_command_lookup.md R127): the new temperature, the payloads, the start of the frame program,
and `busy`. The request's output trace starts empty. -/
def State.accept (p : Payloads) (t : Temp) (s : State) : State :=
  { s with
    temp := t
    proto := p.proto
    p0Val := p.v0
    p0Cnt := p.n0
    p1Val := p.v1
    p1Cnt := p.n1
    step := 0#4
    bitIdx := 0#6
    half := false
    busy := true
    trace := [] }

/-- What `rst` = 1 does to the core (70_reset_and_hazards.md R170, R171): every register at its reset value; nothing more
is emitted, and the observer keeps what was sent. -/
def State.resetRegisters (s : State) : State := { State.reset with trace := s.trace, inputs := s.inputs }

/-- Let these stimuli drive the ports from now on. Reset takes effect at once when asserted, without waiting for a clock
edge (70_reset_and_hazards.md R170). Log 7. -/
def State.drive (l : List Stimulus) (s : State) : State :=
  if ({ s with inputs := l } : State).rst then ({ s with inputs := l } : State).resetRegisters else { s with inputs := l }

/-- The stimuli left after an edge that accepted nothing: a level has had its one edge, a request is held. -/
def heldInputs : List Stimulus → List Stimulus
  | [] => []
  | .request c :: rest => .request c :: rest
  | .level _ _ _ :: rest => rest

/-- The ports after an edge that accepted nothing. -/
def State.afterEdge (s : State) : State := s.drive (heldInputs s.inputs)

/-- The ports after the edge that accepted the request on them. -/
def State.afterAccept (s : State) : State := s.drive s.inputs.tail

/-- Apply `f` to the next state, if there is one. -/
def mapNext (f : State → State) : Result → Result
  | .next s => .next (f s)
  | .fault r => .fault r
  | .refused r => .refused r

/-- Go on with `f` from the next state, if there is one. -/
def andThen (r : Result) (f : State → Result) : Result :=
  match r with
  | .next s => f s
  | .fault e => .fault e
  | .refused e => .refused e

end Sys2Proof.Machine
end

