-- ==== Sys2Proof/Machine/AcRequests.lean ====
section
/-! DEFINITION. The four AC requests (44_command_lookup.md R134 to R137). Each is the acceptance action of R127; the
sequencer then runs `AC_PROG`. -/

namespace Sys2Proof.Machine

/-- `AC.POWER_ON` (44_command_lookup.md R134): the temperature is neither read nor written. -/
def execAcPowerOn (s : State) : Result := .next (s.accept romAcPowerOn s.temp)

/-- `AC.POWER_OFF` (44_command_lookup.md R135): the temperature is neither read nor written. -/
def execAcPowerOff (s : State) : Result := .next (s.accept romAcPowerOff s.temp)

/-- Accept a request that sends the temperature-table entry of the new temperature `t` (44_command_lookup.md R125). -/
def acceptTemp (t : Temp) (s : State) : Result :=
  match tempMap t with
  | some e => .next (s.accept (tempPayloads e) t)
  | none => .refused .tempOutOfRange

/-- `AC.PLUS` (44_command_lookup.md R136). -/
def execAcPlus (s : State) : Result := acceptTemp (satInc s.temp) s

/-- `AC.MINUS` (44_command_lookup.md R137). -/
def execAcMinus (s : State) : Result := acceptTemp (satDec s.temp) s

end Sys2Proof.Machine
end

