-- ==== Sys2Proof/Machine/TvRequests.lean ====
section
/-! DEFINITION. The four TV requests (44_command_lookup.md R130 to R133). Each is the acceptance action of R127; the
sequencer then runs `NEC_PROG`. None of them reads or writes the temperature (43_nec_framer.md R117). -/

namespace Sys2Proof.Machine

/-- `TV.POWER_ON` (44_command_lookup.md R130). -/
def execTvPowerOn (s : State) : Result := .next (s.accept romTvPowerOn s.temp)

/-- `TV.POWER_OFF` (44_command_lookup.md R131). -/
def execTvPowerOff (s : State) : Result := .next (s.accept romTvPowerOff s.temp)

/-- `TV.PLUS` (44_command_lookup.md R132). -/
def execTvPlus (s : State) : Result := .next (s.accept romTvPlus s.temp)

/-- `TV.MINUS` (44_command_lookup.md R133). -/
def execTvMinus (s : State) : Result := .next (s.accept romTvMinus s.temp)

end Sys2Proof.Machine
end

