-- ==== Sys2Proof/Machine/Dispatch.lean ====
section
/-! DEFINITION. The meaning of each request: what the edge that accepts it does to the core's registers. -/

namespace Sys2Proof.Machine

def exec (i : Instr) (s : State) : Host.Outcome State Fault Refusal :=
  match i with
  -- the TV requests
  | .tvPowerOn => Sys2Proof.Machine.execTvPowerOn s
  | .tvPowerOff => Sys2Proof.Machine.execTvPowerOff s
  | .tvPlus => Sys2Proof.Machine.execTvPlus s
  | .tvMinus => Sys2Proof.Machine.execTvMinus s
  -- the AC requests
  | .acPowerOn => Sys2Proof.Machine.execAcPowerOn s
  | .acPowerOff => Sys2Proof.Machine.execAcPowerOff s
  | .acPlus => Sys2Proof.Machine.execAcPlus s
  | .acMinus => Sys2Proof.Machine.execAcMinus s

end Sys2Proof.Machine
end

