-- ==== Sys2Proof/Machine/Edge.lean ====
section
/-! DEFINITION. What one clock edge decides (60_exceptions.md R154), and how a request word stands on the port. -/

namespace Sys2Proof.Machine

/-- What happens at one clock edge. -/
inductive EdgeEvent where
  /-- `rst` = 1: reset, and nothing else. -/
  | reset
  /-- The request on the port is accepted. -/
  | accept (i : Instr)
  /-- The sequencer proceeds. -/
  | sequence
  /-- No reset, no request, no frame: the core stays idle. -/
  | idle
  deriving DecidableEq, Repr

/-- The order of 60_exceptions.md R154: reset, then acceptance (10_state.md R29), then the sequencer. -/
def edgeEvent (s : State) : EdgeEvent :=
  if s.rst then .reset
  else if s.busy then .sequence
  else if s.reqValid then .accept (decodeReq s.reqCode)
  else .idle

/-- An edge with `rst` = 1: the core holds its reset values (70_reset_and_hazards.md R170). -/
def resetEdge (s : State) : State := s.resetRegisters.afterEdge

/-- The state in which the request word `c` stands on the port and the core can accept it at the next edge. Log 11. -/
def State.present (c : Code) (s : State) : State := { s with busy := false, inputs := .request c :: s.inputs }

/-- The state in which the instruction of `nbits` bits `w` is the next to run; `s` itself where the decoder reads
none. Log 11. -/
def presentWord (s : State) (nbits w : Nat) : State :=
  match decodeTableWord nbits w with
  | some i => s.present (encode i)
  | none => s

end Sys2Proof.Machine
end

