-- ==== Sys2Proof/Machine/Sequencer.lean ====
section
/-! DEFINITION. The serializer step and the frame sequencer step (41_bitstream_serializer.md R91, 40_pulse_generator.md
R83), and the segments still to be emitted (10_state.md R33). -/

namespace Sys2Proof.Machine

/-- The value held in a payload slot (10_state.md R25). -/
def State.slotVal (k : Slot) (s : State) : PayloadWord :=
  match k with
  | .p0 => s.p0Val
  | .p1 => s.p1Val

/-- The bit count held in a payload slot (10_state.md R25). -/
def State.slotCnt (k : Slot) (s : State) : Count :=
  match k with
  | .p0 => s.p0Cnt
  | .p1 => s.p1Cnt

/-- The mark half of the symbol that is due (41_bitstream_serializer.md R91). -/
def State.sendMark (s : State) : State := { s.emitMark symbolMark with half := true }

/-- The space half of the symbol that is due, bit `bit_idx` of slot `k` (41_bitstream_serializer.md R91). -/
def State.sendSpace (k : Slot) (s : State) : State :=
  { s.emitSpace (symbolSpace (bit (s.slotVal k).toNat s.bitIdx.toNat)) with half := false, bitIdx := s.bitIdx + 1#6 }

/-- The `ENC` element is done: emits nothing (41_bitstream_serializer.md R91). -/
def State.endEnc (s : State) : State := { s with bitIdx := 0#6, half := false, step := s.step + 1#4 }

/-- `step <- step + 1` (10_state.md R26). -/
def State.nextElement (s : State) : State := { s with step := s.step + 1#4 }

/-- The `END` element: release the line and clear `busy`; `step` stays (40_pulse_generator.md R83). -/
def State.endFrame (s : State) : State := { s.release with busy := false }

/-- `SerStep(k)` (41_bitstream_serializer.md R91). A count above 35 is refused (R94). -/
def serStep (k : Slot) (s : State) : Result :=
  if 35 < (s.slotCnt k).toNat then .refused .countAbove35
  else if s.bitIdx.toNat < (s.slotCnt k).toNat then
    if s.half then .next (s.sendSpace k) else .next s.sendMark
  else .next s.endEnc

/-- `SeqStep` on the element it has read (40_pulse_generator.md R83). -/
def runElement (e : Element) (s : State) : Result :=
  match e with
  | .mark d => .next (s.emitMark d).nextElement
  | .space d => .next (s.emitSpace d).nextElement
  | .enc k => serStep k s
  | .finish => .next s.endFrame

/-- `SeqStep` (40_pulse_generator.md R83); enabled only when `busy` = 1 and `rst` = 0, which the edge decides. -/
def seqStep (s : State) : Result :=
  match progRom s.proto s.step with
  | some e => runElement e s
  | none => .refused .noElement

/-- All the segments of an element, from its start (41_bitstream_serializer.md R90, 40_pulse_generator.md R83). -/
def State.elementSegs (s : State) : Element → List Segment
  | .mark d => [.mark d]
  | .space d => [.space d]
  | .enc k => encodeBits (s.slotVal k).toNat (s.slotCnt k).toNat
  | .finish => [.release]

/-- How many segments of the current element have been emitted. -/
def State.elementDone (s : State) : Nat := 2 * s.bitIdx.toNat + s.half.toNat

/-- The segments still to be emitted by the frame in progress (10_state.md R33). -/
def State.pending (s : State) : List Segment :=
  if s.busy then (((program s.proto).drop s.step.toNat).flatMap s.elementSegs).drop s.elementDone else []

end Sys2Proof.Machine
end

