-- ==== Sys2Proof/Machine/Step.lean ====
section
/-! DEFINITION. One step of the core at the segment level (00_scope.md R13): one clock edge. Log 5. -/

namespace Sys2Proof.Machine

/-- One clock edge (60_exceptions.md R154). -/
def step (s : State) : Host.Outcome State Fault Refusal :=
  match edgeEvent s with
  | .reset => .next (resetEdge s)
  | .accept i => mapNext State.afterAccept (exec i s)
  | .sequence => mapNext State.afterEdge (seqStep s)
  | .idle => .next s.afterEdge

/-- The state whose next step runs the instruction of `nbits` bits `w`: the request word is presented at the port, before
anything else the script holds, and the core is ready to accept it. Log 11. -/
def State.withFetchWord (s : State) (nbits w : Nat) : State := presentWord s nbits w

end Sys2Proof.Machine
end

