-- ==== Sys2Proof/Machine/Receiver.lean ====
section
/-! DEFINITION. The receiver that the spec uses as a test oracle (00_scope.md R8, 42_ac_framer.md R104); it is no part of
the core and no step calls it. -/

namespace Sys2Proof

/-- Read the two payload words of an AC frame: the start burst is skipped, then 35 symbols; the trailer mark, the
inter-frame space and the block opener are skipped, then 31 symbols (42_ac_framer.md R104). DESIGN CHOICE: neither the
length of the list nor the segments it skips are checked, so a list that is cut short is read as the symbols it has
(the empty list as (0, 0)), where the spec is silent (93_implementation_defined.md U13). Log 23, safe. -/
def receiveAc (l : List Segment) : Option (Nat × Nat) :=
  match decodeSymbols ((l.drop 2).take 70), decodeSymbols ((l.drop 76).take 62) with
  | some a, some b => some (a, b)
  | _, _ => none

/-- Read the two payload words of a TV frame: the start burst is skipped, then 16 and 16 symbols with no separator
(43_nec_framer.md R111). DESIGN CHOICE: as for `receiveAc`, neither length nor skipped segments are checked. Log 23,
safe. -/
def receiveNec (l : List Segment) : Option (Nat × Nat) :=
  match decodeSymbols ((l.drop 2).take 32), decodeSymbols ((l.drop 34).take 32) with
  | some a, some c => some (a, c)
  | _, _ => none

end Sys2Proof
end

