-- ==== Sys2Proof/Machine/Timed.lean ====
section
/-! DEFINITION. The time-level form (40_pulse_generator.md R84, 10_state.md R28, 70_reset_and_hazards.md R183) over the
same state and the same operations, for a clock of any frequency `CLK_HZ`. Every edge decides one thing, in the order
of 60_exceptions.md R154. An edge at which the core accepts a request or runs a `SeqStep` takes no time, so the next
edge falls at the same instant; every other edge takes one clock cycle. Log 12, 24, 25. -/

namespace Sys2Proof.Machine

/-- The duration in µs of the segment that the sequencer's step from `s` to `t` emitted; 0 where it emitted none. -/
def newDuration (s t : State) : Nat := totalDuration (t.trace.drop s.trace.length)

/-- Load `remain` with the duration of the segment that the step from `s` to `t` emitted (40_pulse_generator.md R84). A
step that emits nothing, and the release, leave nothing to count. -/
def State.loadRemain (clkHz : Nat) (s t : State) : State := { t with remain := cyclesOf clkHz (newDuration s t) }

/-- The latency begins to pass at acceptance (40_pulse_generator.md R84). -/
def State.startLatency (latency : Nat) (s : State) : State := { s with latencyLeft := latency, remain := 0 }

/-- The sequencer proceeds (60_exceptions.md R154): a cycle of the latency passes, or one of the current segment; where
none is left, one `SeqStep` runs (40_pulse_generator.md R83, R84). -/
def proceed (clkHz : Nat) (s : State) : Result :=
  if 0 < s.latencyLeft then .next { s with latencyLeft := s.latencyLeft - 1 }
  else if 0 < s.remain then .next { s with remain := s.remain - 1 }
  else mapNext (State.loadRemain clkHz s) (seqStep s)

/-- One edge of the time-level form, for a given `CLK_HZ` and a given `ACCEPT_LATENCY` in clock cycles
(60_exceptions.md R154). -/
def timedEdgeWith (clkHz latency : Nat) (s : State) : Result :=
  match edgeEvent s with
  | .reset => .next (resetEdge s)
  | .accept i => mapNext (fun t => (t.startLatency latency).afterAccept) (exec i s)
  | .sequence => mapNext State.afterEdge (proceed clkHz s)
  | .idle => .next s.afterEdge

/-- One edge of the time-level form. -/
def timedEdge (s : State) : Result := timedEdgeWith Config.clkHz Config.acceptLatency s

/-- How many clock cycles the edge at `s` takes. Acceptance takes no time (70_reset_and_hazards.md R183), nor does a
`SeqStep`, whose segment is then counted down (40_pulse_generator.md R84). DESIGN CHOICE: such an edge is followed by
the next one at the same instant, which is how R84 and R180 can hold beside 60_exceptions.md R154 and 10_state.md R29.
Log 24, unsafe. -/
def State.edgeCycles (s : State) : Nat :=
  match edgeEvent s with
  | .reset => 1
  | .accept _ => 0
  | .sequence => if 0 < s.latencyLeft ∨ 0 < s.remain then 1 else 0
  | .idle => 1

/-- The state in which the present instant ends: at most `fuel` edges that take no time have passed. Three suffice: `END`,
an acceptance and the first `SeqStep`. -/
def settle (clkHz latency : Nat) : Nat → State → Result
  | 0, s => .next s
  | fuel + 1, s =>
    if s.edgeCycles = 0 then andThen (timedEdgeWith clkHz latency s) (settle clkHz latency fuel) else .next s

/-- The state of the core during the clock cycle that begins `k` cycles from now. -/
def duringCycle (clkHz latency : Nat) : Nat → State → Result
  | 0, s => settle clkHz latency 3 s
  | k + 1, s =>
    andThen (settle clkHz latency 3 s) fun t =>
      andThen (timedEdgeWith clkHz latency t) (duringCycle clkHz latency k)

/-- The clock cycles that the next `n` edges take. -/
def cyclesOfEdges (clkHz latency : Nat) : Nat → State → Nat
  | 0, _ => 0
  | n + 1, s =>
    s.edgeCycles +
      match timedEdgeWith clkHz latency s with
      | .next t => cyclesOfEdges clkHz latency n t
      | .fault _ => 0
      | .refused _ => 0

end Sys2Proof.Machine
end

