-- ==== Sys2Proof/Safety.lean ====
section
/-! DEFINITION. What counts as a safe run, in the terms the statements use: legal states, inputs without a reset,
alternating output, and runs of many steps. -/

namespace Sys2Proof.Machine

/-- A stimulus that asserts `rst`. -/
def Stimulus.assertsReset : Stimulus → Bool
  | .request _ => false
  | .level r _ _ => r

/-- No stimulus of the script asserts `rst`: a run without reset (44_command_lookup.md R128). -/
def NoReset (l : List Stimulus) : Prop := ∀ x ∈ l, x.assertsReset = false

/-- The script that presents these requests in order, each held until it is accepted (30_encoding.md R64). -/
def scriptOf (requests : List Instr) : List Stimulus := requests.map fun i => .request (encode i)

/-- The bit count of each payload slot for each protocol: 35 and 31, or 16 and 16 (42_ac_framer.md R102,
43_nec_framer.md R112). -/
def protocolCount : Protocol → Slot → Nat
  | .ac, .p0 => 35
  | .ac, .p1 => 31
  | .nec, .p0 => 16
  | .nec, .p1 => 16

/-- The sequencer's position: `step` is at an element, and the serializer's position is within it; it is 0 at an element
that is no `ENC` (10_state.md R26, R27; 41_bitstream_serializer.md R91). -/
def State.PositionOk (s : State) : Prop :=
  match progRom s.proto s.step with
  | none => False
  | some (.enc k) => s.bitIdx.toNat ≤ (s.slotCnt k).toNat ∧ (s.half = true → s.bitIdx.toNat < (s.slotCnt k).toNat)
  | some (.mark _) => s.bitIdx = 0#6 ∧ s.half = false
  | some (.space _) => s.bitIdx = 0#6 ∧ s.half = false
  | some .finish => s.bitIdx = 0#6 ∧ s.half = false

/-- The level that the last segment of a trace leaves on the line; inactive before the first. -/
def lastLevel (l : List Segment) : Bool := ((l.getLast?).map Segment.level).getD false

/-- A frame in progress is well placed: its counts are its protocol's, its payloads fit their counts
(44_command_lookup.md R139), the position is legal, and the line shows the last segment emitted. -/
structure State.FrameOk (s : State) : Prop where
  count0 : s.p0Cnt.toNat = protocolCount s.proto .p0
  count1 : s.p1Cnt.toNat = protocolCount s.proto .p1
  fits0 : s.p0Val.toNat < 2 ^ s.p0Cnt.toNat
  fits1 : s.p1Val.toNat < 2 ^ s.p1Cnt.toNat
  position : s.PositionOk
  line : s.irGate = lastLevel s.trace

/-- The invariant of the core. -/
structure State.Legal (s : State) : Prop where
  /-- 10_state.md R24. -/
  tempRange : 16 ≤ s.temp.toNat ∧ s.temp.toNat ≤ 30
  /-- The line is inactive while no frame is in progress (10_state.md R22, 40_pulse_generator.md R82). -/
  idleDark : s.busy = false → s.irGate = false
  frame : s.busy = true → s.FrameOk
  /-- While `rst` = 1 the core holds its reset values (70_reset_and_hazards.md R170). -/
  resetHeld : s.rst = true → s = s.resetRegisters

/-- The frame in progress is that of a request: what it has emitted and what it will emit are together the segment list
of some request at some legal temperature, whose new temperature is the one now held (44_command_lookup.md R128). -/
def State.SendsARequest (s : State) : Prop :=
  s.busy = true → ∃ (i : Instr) (t : Temp), (16 ≤ t.toNat ∧ t.toNat ≤ 30) ∧
    s.temp = tempAfter t i ∧ s.trace ++ s.pending = segs i t

/-- A frame in progress has time left to pass before its next segment; so it is in the time-level form wherever a clock
cycle passes (log 24). -/
def State.TimeOk (s : State) : Prop :=
  s.busy = true → 1 ≤ s.latencyLeft ∨ 1 ≤ s.remain

/-- The duration counter holds no more than the longest segment (10_state.md R28). -/
def State.RemainFits (clkHz : Nat) (s : State) : Prop := s.remain ≤ cyclesOf clkHz longestSegment

/-- The state without the two counters of the time-level form. -/
def State.untimed (s : State) : State := { s with remain := 0, latencyLeft := 0 }

/-- The duration of a frame in clock cycles. -/
def frameCycles (clkHz : Nat) (l : List Segment) : Nat := totalDuration (l.map (Segment.inCycles clkHz))

/-- The output alternates, mark first, up to the final mark and the release (30_encoding.md R67). The flag says that a
mark is due. -/
def alternating : Bool → List Segment → Bool
  | true, .mark _ :: rest => alternating false rest
  | false, .space _ :: rest => alternating true rest
  | false, [.release] => true
  | _, _ => false

/-- The symbols of a string of payload bits, least significant bit first, as spec/95_test_vectors.md writes them. -/
def symbolsOf (bits : List Nat) : List Segment := bits.flatMap fun b => symbol (b == 1)

/-- `k` calls of `f`, stopping where it stops. -/
def iterate (f : State → Result) : Nat → State → Result
  | 0, s => .next s
  | k + 1, s => andThen (f s) (iterate f k)

/-- `k` steps of the core at the segment level. -/
def run (k : Nat) (s : State) : Result := Host.Core.run Sys2Proof.core k s

/-- The number of `SeqStep`s of a frame: one per element and two per payload bit (40_pulse_generator.md R83, where the
elements counted are those without their own symbols; log 13). -/
def frameSteps (p : Protocol) (n0 n1 : Nat) : Nat := (program p).length + 2 * (n0 + n1)

/-- The number of `SeqStep`s of a request's frame. -/
def requestSteps (i : Instr) : Nat :=
  match i.device with
  | .tv => frameSteps .nec 16 16
  | .ac => frameSteps .ac 35 31

end Sys2Proof.Machine
end

