-- ==== Sys2Proof/Certificates/Slice0/Obligations.lean ====
section
/-! DEFINITION. The statements for the provers. -/

open Sys2Proof Sys2Proof.Machine

/-! ### Encodings -/

/-- 30_encoding.md R60: bit 2 of the request word is the device, bits 1..0 are the command, with no extension and no
scaling. -/
def Obligations.RequestWordFields : Prop :=
  ∀ c : Code,
    (c.extractLsb' 2 1 = 0#1 → (decodeReq c).device = .tv) ∧ (c.extractLsb' 2 1 = 1#1 → (decodeReq c).device = .ac) ∧
    (c.extractLsb' 0 2 = 0b00#2 → (decodeReq c).command = .powerOn) ∧
    (c.extractLsb' 0 2 = 0b01#2 → (decodeReq c).command = .powerOff) ∧
    (c.extractLsb' 0 2 = 0b10#2 → (decodeReq c).command = .plus) ∧
    (c.extractLsb' 0 2 = 0b11#2 → (decodeReq c).command = .minus)

/-- 30_encoding.md R62: the opcode map, word by word. -/
def Obligations.OpcodeMapWords : Prop :=
  decodeReq 0b000#3 = .tvPowerOn ∧ decodeReq 0b001#3 = .tvPowerOff ∧ decodeReq 0b010#3 = .tvPlus ∧
  decodeReq 0b011#3 = .tvMinus ∧ decodeReq 0b100#3 = .acPowerOn ∧ decodeReq 0b101#3 = .acPowerOff ∧
  decodeReq 0b110#3 = .acPlus ∧ decodeReq 0b111#3 = .acMinus

/-- 30_encoding.md R61, R62: every code is one request and every request one code. That a request's word can also be
written as one byte, which decodes to the same request with nothing left over, is the model's choice (log 10). -/
def Obligations.DecodeEncodeAgree : Prop :=
  (∀ i : Instr, i.wellFormed = true → decodeReq (encode i) = i ∧ decodeBytes (encodeBytes i) = .instr i []) ∧
    ∀ c : Code, (decodeReq c).wellFormed = true ∧ encode (decodeReq c) = c

/-- A table word decodes to a request exactly when its low byte is the request's code: the unused bits of the byte are
0. That a word is carried in one byte is the model's choice (log 10). -/
def Obligations.TableWordsDecodeExactly : Prop :=
  ∀ (nbits w : Nat) (i : Instr),
    decodeTableWord nbits w = some i ↔ 1 ≤ nbits ∧ nbits ≤ 8 ∧ w % 256 = (encode i).toNat

/-- 30_encoding.md R68: the ROM encoding of a well-formed element gives the element back, and both frame programs are
well formed. The width of the common argument field is the model's choice (log 19). -/
def Obligations.ElementRomRoundTrip : Prop :=
  (∀ e : Element, e.wellFormed = true → decodeElement e.kind e.argument = e) ∧
    ∀ p : Protocol, programWellFormed (program p) = true

/-- 30_encoding.md R64, R65: a request's name assembles to it, and with a comment after it as well, and the only other
name is `TV.TOGGLE`, which is `TV.POWER_ON`. That blanks around a name count for nothing (`lineText`, and the blank
before the comment) is the model's choice (log 18). -/
def Obligations.AssemblerNames : Prop :=
  (∀ i : Instr, assembleLine i.mnemonic.toList = .request i) ∧
  assembleLine "TV.TOGGLE".toList = .request .tvPowerOn ∧
  (∀ (line : List Char) (i : Instr), assembleLine line = .request i →
    lineText line = i.mnemonic.toList ∨ lineText line = "TV.TOGGLE".toList ∧ i = .tvPowerOn) ∧
  ∀ (i : Instr) (comment : List Char), assembleLine (i.mnemonic.toList ++ ' ' :: ';' :: comment) = .request i

/-! ### The symbol code, the serializer and the two frames as pure functions -/

/-- 41_bitstream_serializer.md R95: length, duration and mark time of ENCODE. What ENCODE is for n above 35, where R90 gives
none, is the model's choice (log 26). -/
def Obligations.EncodeLengthAndDuration : Prop :=
  ∀ v n : Nat, (encodeBits v n).length = 2 * n ∧
    totalDuration (encodeBits v n) = 1120 * n + 1120 * popcount (v % 2 ^ n) n ∧ markTime (encodeBits v n) = 560 * n

/-- 41_bitstream_serializer.md R96: reading the spaces of ENCODE(v, n) gives the low n bits of v. What
ENCODE is for n above 35, where R90 gives none, is the model's choice (log 26). -/
def Obligations.EncodeDecodeRoundTrip : Prop :=
  ∀ v n : Nat, decodeSymbols (encodeBits v n) = some (v % 2 ^ n)

/-- 41_bitstream_serializer.md R97: two values with the same low n bits give the same output, and only those do.
What ENCODE is for n above 35, where R90 gives none, is the model's choice (log 26). -/
def Obligations.EncodeSeesLowBitsOnly : Prop :=
  ∀ v w n : Nat, encodeBits v n = encodeBits w n ↔ v % 2 ^ n = w % 2 ^ n

/-- 42_ac_framer.md R104, 43_nec_framer.md R111: the receiver of the spec's test oracle reads the two payload words back
from a frame sent with the core's counts. -/
def Obligations.ReceiverReadsThePayload : Prop :=
  (∀ a b : Nat, receiveAc (acFrame a 35 b 31) = some (a % 2 ^ 35, b % 2 ^ 31)) ∧
    ∀ a c : Nat, receiveNec (necFrame a 16 c 16) = some (a % 2 ^ 16, c % 2 ^ 16)

/-- 30_encoding.md R67: every frame, with any bit counts, alternates mark and space up to a final mark and the release.
What a frame is for a count above 35, where 42_ac_framer.md R101 and 43_nec_framer.md R111 give none, is the model's
choice (log 26). -/
def Obligations.FramesAlternate : Prop :=
  ∀ a na b nb : Nat, alternating true (acFrame a na b nb) = true ∧ alternating true (necFrame a na b nb) = true

/-- 42_ac_framer.md R103: an AC frame with counts 35 and 31. -/
def Obligations.AcFrameShape : Prop :=
  ∀ a b : Nat, ∃ l : List Segment, acFrame a 35 b 31 = l ++ [.release] ∧ l.length = 139 ∧
    (l.filter Segment.isMark).length = 70 ∧ (l.filter Segment.isSpace).length = 69 ∧ markTime l = 47632 ∧
    totalDuration l = 111422 + 1120 * (popcount (a % 2 ^ 35) 35 + popcount (b % 2 ^ 31) 31) ∧
    111422 ≤ totalDuration l ∧ totalDuration l ≤ 185342

/-- 43_nec_framer.md R116: a TV frame with counts 16 and 16, and the length of every TV request. -/
def Obligations.NecFrameShape : Prop :=
  (∀ a c : Nat, ∃ l : List Segment, necFrame a 16 c 16 = l ++ [.release] ∧ l.length = 75 ∧
    (l.filter Segment.isMark).length = 38 ∧ (l.filter Segment.isSpace).length = 37 ∧ markTime l = 46578 ∧
    totalDuration l = 211212 + 1120 * (popcount (a % 2 ^ 16) 16 + popcount (c % 2 ^ 16) 16)) ∧
  ∀ (i : Instr) (t : Temp), i.device = .tv → totalDuration (segs i t) = 228012

/-! ### The primitives, the serializer step and the sequencer step -/

/-- 40_pulse_generator.md R80, R81, R82: what the three primitives write, and the durations the core gives them. The
segment record `trace` stands for `emit` (00_scope.md R13). -/
def Obligations.PulsePrimitives : Prop :=
  (∀ (s : State) (d : Nat), s.emitMark d = { s with irGate := true, trace := s.trace ++ [.mark d] }) ∧
  (∀ (s : State) (d : Nat), s.emitSpace d = { s with irGate := false, trace := s.trace ++ [.space d] }) ∧
  (∀ s : State, s.release = { s with irGate := false, trace := s.trace ++ [.release] }) ∧
  (∀ (i : Instr) (t : Temp) (d : Nat), Segment.mark d ∈ segs i t → d = 560 ∨ d = 562 ∨ d = 8992) ∧
  ∀ (i : Instr) (t : Temp) (d : Nat), Segment.space d ∈ segs i t →
    d = 560 ∨ d = 1680 ∨ d = 2250 ∨ d = 4496 ∨ d = 20654 ∨ d = 41425 ∨ d = 96293

/-- 41_bitstream_serializer.md R91, and R66 for the symbol: one serializer step, in each of its three cases, with
everything else unchanged; for any slot, any contents, any count up to 35. -/
def Obligations.SerializerStep : Prop :=
  ∀ (k : Slot) (s : State), (s.slotCnt k).toNat ≤ 35 →
    (s.bitIdx.toNat < (s.slotCnt k).toNat → s.half = false →
      serStep k s = .next { s with irGate := true, trace := s.trace ++ [.mark 560], half := true }) ∧
    (s.bitIdx.toNat < (s.slotCnt k).toNat → s.half = true → ∃ t : State,
      serStep k s = .next t ∧ t.bitIdx.toNat = s.bitIdx.toNat + 1 ∧
      t = { s with
        irGate := false
        trace := s.trace ++ [.space (if (s.slotVal k).toNat.testBit s.bitIdx.toNat then 1680 else 560)]
        half := false
        bitIdx := t.bitIdx }) ∧
    ((s.slotCnt k).toNat ≤ s.bitIdx.toNat →
      serStep k s = .next { s with bitIdx := 0#6, half := false, step := s.step + 1#4 })

/-- 41_bitstream_serializer.md R91 and R92: over a whole ENC element the serializer steps emit exactly ENCODE(v, n), leave
the serializer at its start and go on to the next element; a count of 0 emits nothing. -/
def Obligations.EncElementEmitsEncode : Prop :=
  ∀ (k : Slot) (s : State), (s.slotCnt k).toNat ≤ 35 → s.bitIdx = 0#6 → s.half = false →
    ∃ t : State, iterate (serStep k) (2 * (s.slotCnt k).toNat + 1) s = .next t ∧
      t.trace = s.trace ++ encodeBits (s.slotVal k).toNat (s.slotCnt k).toNat ∧
      t = { s with
        irGate := if (s.slotCnt k).toNat = 0 then s.irGate else false
        step := s.step + 1#4
        trace := t.trace }

/-- 41_bitstream_serializer.md R94: a count above 35 is refused by the serializer, and no request loads one. -/
def Obligations.CountsAboveThirtyFive : Prop :=
  (∀ (k : Slot) (s : State), 35 < (s.slotCnt k).toNat → serStep k s = .refused .countAbove35) ∧
    ∀ (i : Instr) (s t : State), exec i s = .next t → ∀ k : Slot,
      t.slotCnt k = 16#6 ∨ t.slotCnt k = 31#6 ∨ t.slotCnt k = 35#6

/-- 40_pulse_generator.md R83: the sequencer's step at each element; END leaves `step` and is the only element that clears
`busy`. Where PROG_ROM holds no element the model refuses (its choice, log 9). -/
def Obligations.SequencerStep : Prop :=
  ∀ s : State,
    (∀ d : Nat, progRom s.proto s.step = some (.mark d) → seqStep s =
      .next { s with irGate := true, trace := s.trace ++ [.mark d], step := s.step + 1#4 }) ∧
    (∀ d : Nat, progRom s.proto s.step = some (.space d) → seqStep s =
      .next { s with irGate := false, trace := s.trace ++ [.space d], step := s.step + 1#4 }) ∧
    (∀ k : Slot, progRom s.proto s.step = some (.enc k) → seqStep s = serStep k s) ∧
    (progRom s.proto s.step = some .finish → seqStep s =
      .next { s with irGate := false, trace := s.trace ++ [.release], busy := false }) ∧
    (progRom s.proto s.step = none → seqStep s = .refused .noElement)

/-- 42_ac_framer.md R100 and 43_nec_framer.md R110: the two frame programs, element by element. -/
def Obligations.FramePrograms : Prop :=
  (List.range 16).map (fun n => progRom .ac (BitVec.ofNat 4 n)) =
    [some (.mark 8992), some (.space 4496), some (.enc .p0), some (.mark 560), some (.space 20654), some (.mark 560),
      some (.space 1680), some (.enc .p1), some (.mark 560), some .finish, none, none, none, none, none, none] ∧
  (List.range 16).map (fun n => progRom .nec (BitVec.ofNat 4 n)) =
    [some (.mark 8992), some (.space 4496), some (.enc .p0), some (.enc .p1), some (.mark 560), some (.space 41425),
      some (.mark 8992), some (.space 2250), some (.mark 560), some (.space 96293), some (.mark 8992),
      some (.space 2250), some (.mark 562), some .finish, none, none]

/-- 10_state.md R33: the segments still to be emitted. At every legal position, with any counts up to 35, a sequencer step
answers a next state, and what has been emitted together with what is still to be emitted stays the same. -/
def Obligations.SequencerConservesOutput : Prop :=
  ∀ s : State, s.busy = true → s.PositionOk → (∀ k, (s.slotCnt k).toNat ≤ 35) →
    ∃ t : State, seqStep s = .next t ∧ t.trace ++ t.pending = s.trace ++ s.pending ∧ (t.busy = true → t.PositionOk)

/-- 42_ac_framer.md R101 and 43_nec_framer.md R111: running a frame program from its start through the sequencer emits
exactly the frame of the two payload slots, whatever they hold, for any counts up to 35, and ends idle with the line
released. -/
def Obligations.FrameProgramEmitsItsFrame : Prop :=
  ∀ s : State, s.busy = true → s.step = 0#4 → s.bitIdx = 0#6 → s.half = false → s.trace = [] →
    s.p0Cnt.toNat ≤ 35 → s.p1Cnt.toNat ≤ 35 →
    iterate seqStep (frameSteps s.proto s.p0Cnt.toNat s.p1Cnt.toNat) s = .next { s with
      busy := false
      irGate := false
      step := match s.proto with | .ac => 9#4 | .nec => 13#4
      trace := match s.proto with
        | .ac => acFrame s.p0Val.toNat s.p0Cnt.toNat s.p1Val.toNat s.p1Cnt.toNat
        | .nec => necFrame s.p0Val.toNat s.p0Cnt.toNat s.p1Val.toNat s.p1Cnt.toNat }

/-- 42_ac_framer.md R105 and 43_nec_framer.md R117: the framers neither read nor write the temperature, and write no
payload slot and no `proto`: a sequencer step with another temperature does the same, and keeps it. -/
def Obligations.FramersIgnoreTemperature : Prop :=
  ∀ (s : State) (u : Temp),
    seqStep { s with temp := u } = mapNext (fun t => { t with temp := u }) (seqStep s) ∧
    ∀ t : State, seqStep s = .next t → t.temp = s.temp ∧ t.proto = s.proto ∧ t.p0Val = s.p0Val ∧ t.p0Cnt = s.p0Cnt ∧
      t.p1Val = s.p1Val ∧ t.p1Cnt = s.p1Cnt ∧ t.remain = s.remain ∧ t.latencyLeft = s.latencyLeft ∧ t.inputs = s.inputs

/-! ### The lookup and the eight requests -/

/-- 44_command_lookup.md R122: the fixed payloads, and no entry at codes 6 and 7. -/
def Obligations.PayloadRomContents : Prop :=
  payloadRom 0#3 = some ⟨.nec, 0x7F00#35, 16#6, 0xF50A#35, 16#6⟩ ∧
  payloadRom 1#3 = some ⟨.nec, 0x7F00#35, 16#6, 0xF50A#35, 16#6⟩ ∧
  payloadRom 2#3 = some ⟨.nec, 0x7F00#35, 16#6, 0xA758#35, 16#6⟩ ∧
  payloadRom 3#3 = some ⟨.nec, 0x7F00#35, 16#6, 0xA45B#35, 16#6⟩ ∧
  payloadRom 4#3 = some ⟨.ac, 0x250200659#35, 35#6, 0x60001008#35, 31#6⟩ ∧
  payloadRom 5#3 = some ⟨.ac, 0x250200651#35, 35#6, 0x20001008#35, 31#6⟩ ∧
  payloadRom 6#3 = none ∧ payloadRom 7#3 = none

/-- 44_command_lookup.md R120: LOOKUP at every code and every temperature at which TEMP_MAP answers. -/
def Obligations.LookupByCode : Prop :=
  (∀ (t : Temp) (e : TempEntry), tempMap (satInc t) = some e →
    lookup .ac .plus t = some (⟨.ac, e.dataA, 35#6, e.dataB.setWidth 35, 31#6⟩, satInc t)) ∧
  (∀ (t : Temp) (e : TempEntry), tempMap (satDec t) = some e →
    lookup .ac .minus t = some (⟨.ac, e.dataA, 35#6, e.dataB.setWidth 35, 31#6⟩, satDec t)) ∧
  ∀ (c : Code) (t : Temp), c ≠ 6#3 → c ≠ 7#3 →
    ∃ p : Payloads, payloadRom c = some p ∧ lookup (devField c) (cmdField c) t = some (p, t)

/-- 44_command_lookup.md R126: the temperature update saturates at both bounds, and the request at a bound is still
performed and sends the entry of the unchanged temperature. -/
def Obligations.TemperatureSaturates : Prop :=
  (∀ t : Temp, 16 ≤ t.toNat → t.toNat ≤ 30 →
    (satInc t).toNat = min (t.toNat + 1) 30 ∧ (satDec t).toNat = max (t.toNat - 1) 16 ∧
    16 ≤ (satInc t).toNat ∧ (satInc t).toNat ≤ 30 ∧ 16 ≤ (satDec t).toNat ∧ (satDec t).toNat ≤ 30) ∧
  satInc 30#5 = 30#5 ∧ satDec 16#5 = 16#5 ∧
  (∃ e, tempMap 30#5 = some e ∧
    dispatch .acPlus 30#5 = some (acFrame e.dataA.toNat 35 (e.dataB.setWidth 35).toNat 31, 30#5)) ∧
  ∃ e, tempMap 16#5 = some e ∧
    dispatch .acMinus 16#5 = some (acFrame e.dataA.toNat 35 (e.dataB.setWidth 35).toNat 31, 16#5)

/-- 44_command_lookup.md R123, R124: the words of the temperature table that the spec fixes. That 30 degrees follows the
pattern is the reading R123 itself records (92_eei_decisions.md D11, log 14). -/
def Obligations.TemperatureTableKnownWords : Prop :=
  (∀ t : Temp, 16 ≤ t.toNat → (t.toNat ≤ 25 ∨ t.toNat = 30) → ∃ e, tempMap t = some e ∧
    e.dataA.toNat = 0x250200000 + (t.toNat - 16) * 0x100 + 0x79) ∧
  tempMap 23#5 = some ⟨0x250200779#35, 0x68001008#31⟩ ∧
  ∀ t : Temp, 16 ≤ t.toNat → t.toNat ≤ 30 → ∃ e, tempMap t = some e

/-- 44_command_lookup.md R138: the 15 entries are pairwise distinct. It holds for every table the free values may be. -/
def Obligations.TemperatureEntriesDistinct : Prop :=
  (∀ t u : Temp, 16 ≤ t.toNat → t.toNat ≤ 30 → 16 ≤ u.toNat → u.toNat ≤ 30 → t ≠ u → tempMap t ≠ tempMap u) ∧
  ∀ (t : Temp) (e : TempEntry), tempMap t = some e → t ≠ 23#5 → (t.toNat ≤ 25 ∨ t.toNat = 30) → e.dataA ≠ 0x250200779#35

/-- 92_eei_decisions.md D31: outside 16..30 TEMP_MAP refuses, so `AC.PLUS` refuses exactly where the new temperature is
outside, and no other request ever refuses. Which held temperatures that is follows from the model's reading of
sat_inc on the raw register (log 8). -/
def Obligations.RefusalOutsideTheRange : Prop :=
  ∀ (i : Instr) (s : State) (r : Refusal),
    exec i s = .refused r ↔ i = .acPlus ∧ s.temp.toNat < 15 ∧ r = .tempOutOfRange

/-- 44_command_lookup.md R139: no payload has a bit at or above its declared count, in any request at any legal
temperature, so no bit of any literal is dropped. -/
def Obligations.PayloadsFitTheirCounts : Prop :=
  ∀ (i : Instr) (s t : State), exec i s = .next t →
    t.p0Val.toNat < 2 ^ t.p0Cnt.toNat ∧ t.p1Val.toNat < 2 ^ t.p1Cnt.toNat ∧
    t.p0Cnt.toNat = protocolCount t.proto .p0 ∧ t.p1Cnt.toNat = protocolCount t.proto .p1 ∧
    (t.proto = .ac ↔ i.device = .ac)

/-- 44_command_lookup.md R127: acceptance loads what LOOKUP gives for the temperature held before the edge, starts the
frame program, sets `busy`, and shows the new temperature at once; the rest of the state is unchanged, but for the
observer's segment trace, of which this says nothing. -/
def Obligations.AcceptanceLoadsTheRegisters : Prop :=
  ∀ (i : Instr) (s : State) (p : Payloads) (t' : Temp), lookup i.device i.command s.temp = some (p, t') →
    ∃ t : State, exec i s = .next t ∧ t.tempO = t' ∧ t = { s with
      proto := p.proto
      p0Val := p.v0
      p0Cnt := p.n0
      p1Val := p.v1
      p1Cnt := p.n1
      temp := t'
      step := 0#4
      bitIdx := 0#6
      half := false
      busy := true
      trace := t.trace }

/-- 44_command_lookup.md R130: `TV.POWER_ON`. -/
def Obligations.TvPowerOnCompletes : Prop :=
  (∀ s : State, ∃ l : List Segment, exec .tvPowerOn s = .next { s with
    proto := .nec, p0Val := 0x7F00#35, p0Cnt := 16#6, p1Val := 0xF50A#35, p1Cnt := 16#6,
    step := 0#4, bitIdx := 0#6, half := false, busy := true, trace := l }) ∧
  ∀ t : Temp, dispatch .tvPowerOn t = some (necFrame 0x7F00 16 0xF50A 16, t) ∧
    totalDuration (segs .tvPowerOn t) = 228012 ∧
    ((segs .tvPowerOn t).drop 2).take 16 = (List.replicate 8 [Segment.mark 560, .space 560]).flatten

/-- 44_command_lookup.md R131: `TV.POWER_OFF` sends the frame of `TV.POWER_ON`. -/
def Obligations.TvPowerOffCompletes : Prop :=
  (∀ s : State, ∃ l : List Segment, exec .tvPowerOff s = .next { s with
    proto := .nec, p0Val := 0x7F00#35, p0Cnt := 16#6, p1Val := 0xF50A#35, p1Cnt := 16#6,
    step := 0#4, bitIdx := 0#6, half := false, busy := true, trace := l }) ∧
  ∀ t : Temp, dispatch .tvPowerOff t = some (necFrame 0x7F00 16 0xF50A 16, t) ∧
    segs .tvPowerOff t = segs .tvPowerOn t ∧ totalDuration (segs .tvPowerOff t) = 228012

/-- 44_command_lookup.md R132: `TV.PLUS`. -/
def Obligations.TvPlusCompletes : Prop :=
  (∀ s : State, ∃ l : List Segment, exec .tvPlus s = .next { s with
    proto := .nec, p0Val := 0x7F00#35, p0Cnt := 16#6, p1Val := 0xA758#35, p1Cnt := 16#6,
    step := 0#4, bitIdx := 0#6, half := false, busy := true, trace := l }) ∧
  ∀ t : Temp, dispatch .tvPlus t = some (necFrame 0x7F00 16 0xA758 16, t) ∧
    totalDuration (segs .tvPlus t) = 228012 ∧
    ((segs .tvPlus t).drop 34).take 32 = symbolsOf [0, 0, 0, 1, 1, 0, 1, 0, 1, 1, 1, 0, 0, 1, 0, 1]

/-- 44_command_lookup.md R133: `TV.MINUS`. -/
def Obligations.TvMinusCompletes : Prop :=
  (∀ s : State, ∃ l : List Segment, exec .tvMinus s = .next { s with
    proto := .nec, p0Val := 0x7F00#35, p0Cnt := 16#6, p1Val := 0xA45B#35, p1Cnt := 16#6,
    step := 0#4, bitIdx := 0#6, half := false, busy := true, trace := l }) ∧
  ∀ t : Temp, dispatch .tvMinus t = some (necFrame 0x7F00 16 0xA45B 16, t) ∧
    totalDuration (segs .tvMinus t) = 228012 ∧
    ((segs .tvMinus t).drop 34).take 32 = symbolsOf [1, 1, 0, 1, 1, 0, 1, 0, 0, 0, 1, 0, 0, 1, 0, 1]

/-- 44_command_lookup.md R134: `AC.POWER_ON`; bit 34 of dataA is sent as a zero symbol (segments 70 and 71). -/
def Obligations.AcPowerOnCompletes : Prop :=
  (∀ s : State, ∃ l : List Segment, exec .acPowerOn s = .next { s with
    proto := .ac, p0Val := 0x250200659#35, p0Cnt := 35#6, p1Val := 0x60001008#35, p1Cnt := 31#6,
    step := 0#4, bitIdx := 0#6, half := false, busy := true, trace := l }) ∧
  popcount 0x250200659 35 = 10 ∧ popcount 0x60001008 31 = 4 ∧
  ∀ t : Temp, dispatch .acPowerOn t = some (acFrame 0x250200659 35 0x60001008 31, t) ∧
    totalDuration (segs .acPowerOn t) = 127102 ∧
    ((segs .acPowerOn t).drop 70).take 2 = [.mark 560, .space 560]

/-- 44_command_lookup.md R135: `AC.POWER_OFF`; bit 34 of dataA and bit 30 of dataB are sent as zero symbols. -/
def Obligations.AcPowerOffCompletes : Prop :=
  (∀ s : State, ∃ l : List Segment, exec .acPowerOff s = .next { s with
    proto := .ac, p0Val := 0x250200651#35, p0Cnt := 35#6, p1Val := 0x20001008#35, p1Cnt := 31#6,
    step := 0#4, bitIdx := 0#6, half := false, busy := true, trace := l }) ∧
  popcount 0x250200651 35 = 9 ∧ popcount 0x20001008 31 = 3 ∧
  ∀ t : Temp, dispatch .acPowerOff t = some (acFrame 0x250200651 35 0x20001008 31, t) ∧
    totalDuration (segs .acPowerOff t) = 124862 ∧
    ((segs .acPowerOff t).drop 70).take 2 = [.mark 560, .space 560] ∧
    ((segs .acPowerOff t).drop 76).take 62 =
      symbolsOf [0, 0, 0, 1, 0, 0, 0, 0, 0, 0, 0, 0, 1, 0, 0, 0, 0, 0, 0, 0, 0, 0, 0, 0, 0, 0, 0, 0, 0, 1, 0]

/-- 44_command_lookup.md R136: `AC.PLUS` at every temperature of its range, for every table the free values may be. -/
def Obligations.AcPlusCompletes : Prop :=
  (∀ s : State, 16 ≤ s.temp.toNat → s.temp.toNat ≤ 30 → ∃ (t' : Temp) (e : TempEntry) (l : List Segment),
    t'.toNat = min (s.temp.toNat + 1) 30 ∧ tempMap t' = some e ∧
    exec .acPlus s = .next { s with
      temp := t', proto := .ac, p0Val := e.dataA, p0Cnt := 35#6, p1Val := e.dataB.setWidth 35, p1Cnt := 31#6,
      step := 0#4, bitIdx := 0#6, half := false, busy := true, trace := l } ∧
    dispatch .acPlus s.temp = some (acFrame e.dataA.toNat 35 e.dataB.toNat 31, t') ∧
    totalDuration (segs .acPlus s.temp) = 111422 + 1120 * (popcount e.dataA.toNat 35 + popcount e.dataB.toNat 31) ∧
    (s.temp = 30#5 → t' = 30#5) ∧
    (t' = 23#5 → totalDuration (segs .acPlus s.temp) = 130462)) ∧
  dispatch .acPlus 22#5 = some (acFrame 0x250200779 35 0x68001008 31, 23#5)

/-- 44_command_lookup.md R137: `AC.MINUS` at every temperature of its range, for every table the free values may be. -/
def Obligations.AcMinusCompletes : Prop :=
  (∀ s : State, 16 ≤ s.temp.toNat → s.temp.toNat ≤ 30 → ∃ (t' : Temp) (e : TempEntry) (l : List Segment),
    t'.toNat = max (s.temp.toNat - 1) 16 ∧ tempMap t' = some e ∧
    exec .acMinus s = .next { s with
      temp := t', proto := .ac, p0Val := e.dataA, p0Cnt := 35#6, p1Val := e.dataB.setWidth 35, p1Cnt := 31#6,
      step := 0#4, bitIdx := 0#6, half := false, busy := true, trace := l } ∧
    dispatch .acMinus s.temp = some (acFrame e.dataA.toNat 35 e.dataB.toNat 31, t') ∧
    totalDuration (segs .acMinus s.temp) = 111422 + 1120 * (popcount e.dataA.toNat 35 + popcount e.dataB.toNat 31) ∧
    (s.temp = 16#5 → t' = 16#5) ∧
    (t' = 23#5 → totalDuration (segs .acMinus s.temp) = 130462)) ∧
  dispatch .acMinus 24#5 = some (acFrame 0x250200779 35 0x68001008 31, 23#5)

/-- The frame of all eight requests: acceptance changes neither the line, nor the input script, nor the registers of the
time-level form; and only `AC.PLUS` and `AC.MINUS` change the temperature (10_state.md R23, 44_command_lookup.md
R127). That the observer's trace starts empty at acceptance is the model's choice (log 6). -/
def Obligations.RequestsFrame : Prop :=
  ∀ (i : Instr) (s t : State), exec i s = .next t →
    t.irGate = s.irGate ∧ t.inputs = s.inputs ∧ t.remain = s.remain ∧ t.latencyLeft = s.latencyLeft ∧
    (i ≠ .acPlus → i ≠ .acMinus → t.temp = s.temp) ∧ t.trace = []

/-- 43_nec_framer.md R117: a TV request neither reads nor writes the temperature: with another temperature it does the
same, and keeps it; and its waveform does not depend on it. -/
def Obligations.TvRequestsIgnoreTemperature : Prop :=
  ∀ (i : Instr) (s : State) (u : Temp), i.device = .tv →
    exec i { s with temp := u } = mapNext (fun t => { t with temp := u }) (exec i s) ∧ segs i u = segs i s.temp

/-- 70_reset_and_hazards.md R182: segments, mark time, space time and total of each request. -/
def Obligations.DurationsPerRequest : Prop :=
  (∀ (i : Instr) (t : Temp), i.device = .tv → (segs i t).length = 75 + 1 ∧ markTime (segs i t) = 46578 ∧
    spaceTime (segs i t) = 181434 ∧ totalDuration (segs i t) = 228012) ∧
  (∀ t : Temp, (segs .acPowerOn t).length = 139 + 1 ∧ markTime (segs .acPowerOn t) = 47632 ∧
    spaceTime (segs .acPowerOn t) = 79470 ∧ totalDuration (segs .acPowerOn t) = 127102) ∧
  (∀ t : Temp, (segs .acPowerOff t).length = 139 + 1 ∧ markTime (segs .acPowerOff t) = 47632 ∧
    spaceTime (segs .acPowerOff t) = 77230 ∧ totalDuration (segs .acPowerOff t) = 124862) ∧
  (∀ (i : Instr) (t : Temp), i = .acPlus ∨ i = .acMinus → 16 ≤ t.toNat → t.toNat ≤ 30 → tempAfter t i = 23#5 →
    (segs i t).length = 139 + 1 ∧ markTime (segs i t) = 47632 ∧ spaceTime (segs i t) = 82830 ∧
      totalDuration (segs i t) = 130462) ∧
  ∀ (i : Instr) (t : Temp) (e : TempEntry), i = .acPlus ∨ i = .acMinus → 16 ≤ t.toNat → t.toNat ≤ 30 →
    tempMap (tempAfter t i) = some e → (segs i t).length = 139 + 1 ∧ markTime (segs i t) = 47632 ∧
      spaceTime (segs i t) = 63790 + 1120 * (popcount e.dataA.toNat 35 + popcount e.dataB.toNat 31) ∧
      totalDuration (segs i t) = 111422 + 1120 * (popcount e.dataA.toNat 35 + popcount e.dataB.toNat 31)

/-! ### One clock edge -/

/-- The state after reset (10_state.md R34). The values of `temp`, `temp_o`, `busy`, `ir_gate` and `req_ready` are the
rule's; that `proto`, `step`, `bit_idx`, `half` and the payload slots are 0 is the model's choice (log 17), where R34
calls them don't-care. -/
def Obligations.ResetState : Prop :=
  State.reset.temp = 22#5 ∧ State.reset.busy = false ∧ State.reset.irGate = false ∧ State.reset.reqReady = true ∧
  State.reset.tempO = 22#5 ∧ State.reset.proto = .nec ∧ State.reset.step = 0#4 ∧ State.reset.bitIdx = 0#6 ∧
  State.reset.half = false ∧ State.reset.p0Val = 0#35 ∧ State.reset.p0Cnt = 0#6 ∧ State.reset.p1Val = 0#35 ∧
  State.reset.p1Cnt = 0#6

/-- A step runs the decoded request: where the core is ready and a request stands on the port (10_state.md R29), the step is
`exec` of it, and then the next stimuli drive the ports (log 4, 7); and the model's `withFetchWord` presents exactly
the word it is given (log 11). -/
def Obligations.StepRunsTheRequest : Prop :=
  (∀ s : State, s.rst = false → s.busy = false → s.reqValid = true →
    step s = mapNext (fun t => t.drive s.inputs.tail) (exec (decodeReq s.reqCode) s)) ∧
  ∀ (s : State) (i : Instr), step (s.withFetchWord 8 (encode i).toNat) =
    mapNext (fun t => t.drive s.inputs) (exec i (s.present (encode i)))

/-- 60_exceptions.md R154: reset, then acceptance, then the sequencer. What then drives the ports is the model's input
script (log 4, 7). -/
def Obligations.EdgePriority : Prop :=
  ∀ s : State,
    (s.rst = true → step s = .next (s.resetRegisters.drive (heldInputs s.inputs))) ∧
    (s.rst = false → s.busy = false → s.reqValid = true →
      step s = mapNext (fun t => t.drive s.inputs.tail) (exec (decodeReq s.reqCode) s)) ∧
    (s.rst = false → s.busy = true → step s = mapNext (fun t => t.drive (heldInputs t.inputs)) (seqStep s)) ∧
    (s.rst = false → s.busy = false → s.reqValid = false → step s = .next (s.drive (heldInputs s.inputs)))

/-- 70_reset_and_hazards.md R170, R171: while `rst` is 1, before or after an edge, the core holds its reset values; a reset
during a frame emits nothing more. That reset acts as soon as the next stimulus asserts it, before the edge that
samples it, is the model's reading (log 7); that the record of what was emitted, `trace`, is kept over a reset is the
model's choice (log 6). -/
def Obligations.ResetHoldsAndAborts : Prop :=
  ∀ s t : State, step s = .next t → (s.rst = true ∨ t.rst = true) →
    t.temp = 22#5 ∧ t.busy = false ∧ t.irGate = false ∧ t.reqReady = true ∧ t.tempO = 22#5 ∧
    (s.rst = true → t.trace = s.trace ∧ t.pending = [])

/-- 60_exceptions.md R152, 10_state.md R29: while a frame is in progress the request port is ignored: with any two scripts
that assert no reset the edge does the same to every register, and a request that is held stays held. -/
def Obligations.BusyCoreIgnoresRequests : Prop :=
  ∀ (s : State) (l m : List Stimulus), s.busy = true → NoReset l → NoReset m →
    mapNext (fun t => { t with inputs := [] }) (step { s with inputs := l }) =
      mapNext (fun t => { t with inputs := [] }) (step { s with inputs := m }) ∧
    ∀ (c : Code) (t : State), l.head? = some (.request c) → step { s with inputs := l } = .next t → t.inputs = l

/-- 70_reset_and_hazards.md R180, 95_test_vectors.md H-1: no gap is enforced: a request held while the last element ends
is accepted at the very next edge. -/
def Obligations.HeldRequestFollowsAtOnce : Prop :=
  ∀ (s : State) (c : Code) (l : List Stimulus), s.busy = true → s.inputs = .request c :: l →
    progRom s.proto s.step = some .finish → ∃ t : State, step s = .next t ∧ t.busy = false ∧
      t.trace = s.trace ++ [.release] ∧ t.temp = s.temp ∧ edgeEvent t = .accept (decodeReq c)

/-- 10_state.md R21, 70_reset_and_hazards.md R171: a frame in progress ends only by its END element or by reset, and
starts only by acceptance. -/
def Obligations.BusyChangesOnlySo : Prop :=
  ∀ s t : State, step s = .next t →
    (s.busy = true → t.busy = false → s.rst = true ∨ t.rst = true ∨ progRom s.proto s.step = some .finish) ∧
    (s.busy = false → t.busy = true → s.rst = false ∧ s.reqValid = true)

/-- 10_state.md R23: the only writers of the temperature are `AC.PLUS` and `AC.MINUS`, besides reset. -/
def Obligations.TemperatureWriters : Prop :=
  ∀ s t : State, step s = .next t → t.temp = s.temp ∨ s.rst = true ∨ t.rst = true ∨
    (edgeEvent s = .accept .acPlus ∧ t.temp.toNat = min (s.temp.toNat + 1) 30) ∨
    (edgeEvent s = .accept .acMinus ∧ t.temp.toNat = max (s.temp.toNat - 1) 16)

/-! ### Invariants and whole runs -/

/-- The reset state meets the invariants. -/
def Obligations.ResetIsLegal : Prop :=
  State.reset.Legal ∧ State.reset.SendsARequest ∧ State.reset.TimeOk

/-- Every step keeps the invariant (10_state.md R24 to R27, 70_reset_and_hazards.md R170): the temperature range, the dark
idle line, the counts, widths and position of a frame in progress, the line level, and the reset values while `rst`
is 1. -/
def Obligations.StepKeepsLegal : Prop :=
  ∀ s t : State, s.Legal → step s = .next t → t.Legal

/-- In a legal state every step answers a next state: no fault and no refusal for any input the ports can carry
(60_exceptions.md R150, 20_memory.md R43). -/
def Obligations.LegalStatesStepOn : Prop :=
  ∀ s : State, s.Legal → ∃ t : State, step s = .next t

/-- Every step keeps a frame in progress on the segment list of a request (44_command_lookup.md R128). -/
def Obligations.StepKeepsTheRequestsFrame : Prop :=
  ∀ s t : State, s.Legal → s.SendsARequest → step s = .next t → t.SendsARequest

/-- 44_command_lookup.md R128: in a run without reset, an accepted request is performed to its end: after the accepting
edge and its frame's steps the core is idle, has emitted exactly SEGS(code, temp), in order, and holds the new
temperature; and until then it is busy and has emitted a beginning of that list. -/
def Obligations.AcceptedRequestRunsToItsEnd : Prop :=
  ∀ (s : State) (i : Instr), s.Legal → NoReset s.inputs → edgeEvent s = .accept i →
    (∃ t : State, run (1 + requestSteps i) s = .next t ∧ t.busy = false ∧ t.irGate = false ∧
      t.trace = segs i s.temp ∧ t.temp = tempAfter s.temp i) ∧
    ∀ k : Nat, 1 ≤ k → k ≤ requestSteps i → ∃ u : State, run k s = .next u ∧ u.busy = true ∧
      u.temp = tempAfter s.temp i ∧ u.trace ++ u.pending = segs i s.temp ∧ u.pending ≠ []

/-- 20_memory.md R45, 30_encoding.md R64: a program, a list of requests each held until it is accepted, is performed in
order: it ends idle with nothing left to present, the temperature is that of all the requests one after the other,
and the last waveform is the last request's, at the temperature the requests before it left. -/
def Obligations.ProgramsRunInOrder : Prop :=
  ∀ (requests : List Instr) (s : State), s.Legal → s.busy = false → s.inputs = scriptOf requests →
    ∃ t : State, run ((requests.map fun i => 1 + requestSteps i).sum) s = .next t ∧ t.busy = false ∧ t.inputs = [] ∧
      t.temp = requests.foldl tempAfter s.temp ∧
      ∀ (before : List Instr) (i : Instr), requests = before ++ [i] → t.trace = segs i (before.foldl tempAfter s.temp)

/-! ### The time-level form -/

/-- Every edge of the time-level form answers a next state and keeps the invariants, for every clock frequency and every
latency: the core stays legal, a frame in progress stays a request's (44_command_lookup.md R128), and the counter
never holds more than the longest segment (10_state.md R28). Every instant ends: after at most three edges that take
no time comes one that takes a clock cycle, and a frame in progress then has time left to pass. Which edges take no
time is the model's choice (log 24), and so is the rounding up that leaves no segment without a cycle on a slow clock
(log 12). -/
def Obligations.CycleKeepsLegal : Prop :=
  ∀ (clkHz latency : Nat) (s : State), 0 < clkHz → s.Legal →
    (∃ t : State, timedEdgeWith clkHz latency s = .next t ∧ t.Legal ∧ (s.SendsARequest → t.SendsARequest) ∧
      (s.RemainFits clkHz → t.RemainFits clkHz)) ∧
    ∃ u : State, settle clkHz latency 3 s = .next u ∧ u.edgeCycles = 1 ∧ u.Legal ∧ u.TimeOk

/-- The time-level form does what the segment level does. An edge at which nothing is being counted down does to every
register but the two counters what the segment-level step does, so it decides in the order of 60_exceptions.md R154;
one at which the latency or a segment is counted down does nothing else; and an edge of a frame in progress without a
reset after it leaves what has been emitted together with what is still to be emitted as it was (10_state.md R33,
70_reset_and_hazards.md R183). Which of these edges take no time is the model's choice (log 24). -/
def Obligations.CycleConservesOutput : Prop :=
  (∀ (clkHz latency : Nat) (s : State), (edgeEvent s = .sequence → s.latencyLeft = 0 ∧ s.remain = 0) →
    mapNext State.untimed (timedEdgeWith clkHz latency s) = mapNext State.untimed (step s)) ∧
  (∀ (clkHz latency : Nat) (s : State), edgeEvent s = .sequence →
    (0 < s.latencyLeft → timedEdgeWith clkHz latency s =
      .next (({ s with latencyLeft := s.latencyLeft - 1 } : State).drive (heldInputs s.inputs))) ∧
    (s.latencyLeft = 0 → 0 < s.remain → timedEdgeWith clkHz latency s =
      .next (({ s with remain := s.remain - 1 } : State).drive (heldInputs s.inputs)))) ∧
  ∀ (clkHz latency : Nat) (s t : State), s.Legal → edgeEvent s = .sequence → timedEdgeWith clkHz latency s = .next t →
    t.rst = false → t.trace ++ t.pending = s.trace ++ s.pending

/-- 40_pulse_generator.md R84: the waveform. For every clock, every latency, every request and every table, during the
clock cycle that begins k cycles after acceptance the line and `busy` are what R84 gives for the request's segment
list, each duration taken in clock cycles (log 12). When the latency and the whole frame have passed, and no later,
`END` has run: the line is released, `busy` is 0 and the whole list has been emitted. That acceptance and each
`SeqStep` take no time, so that with a latency of 0 the first mark starts at the instant of acceptance, is the model's
choice (log 24). -/
def Obligations.CycleWaveform : Prop :=
  ∀ (clkHz latency : Nat) (s : State) (i : Instr), 0 < clkHz → s.Legal → NoReset s.inputs → edgeEvent s = .accept i →
    (∀ k : Nat, k < latency + frameCycles clkHz (segs i s.temp) → ∃ t : State,
      duringCycle clkHz latency k s = .next t ∧
      t.irGate = gateAt latency ((segs i s.temp).map (Segment.inCycles clkHz)) k ∧
      t.busy = busyAt latency ((segs i s.temp).map (Segment.inCycles clkHz)) k ∧ t.temp = tempAfter s.temp i) ∧
    ∃ t : State,
      iterate (timedEdgeWith clkHz latency) (1 + requestSteps i + latency + frameCycles clkHz (segs i s.temp)) s = .next t ∧
      cyclesOfEdges clkHz latency (1 + requestSteps i + latency + frameCycles clkHz (segs i s.temp)) s =
        latency + frameCycles clkHz (segs i s.temp) ∧
      t.irGate = false ∧ t.busy = false ∧ t.reqReady = true ∧ t.trace = segs i s.temp ∧ t.temp = tempAfter s.temp i

/-- 70_reset_and_hazards.md R180: no gap is enforced. When the next request is held while a frame ends, the line is low
after that frame for ACCEPT_LATENCY only: counted from the instant the last mark ends, it is what R84 gives for the
next request, which sees the temperature that the first one left. That END and the acceptance after it take no time,
and so that with a latency of 0 the next first mark starts at that very instant, is the model's choice (log 24);
durations are taken in clock cycles (log 12). -/
def Obligations.BackToBackGapIsTheLatency : Prop :=
  ∀ (clkHz latency : Nat) (s : State) (i j : Instr) (l : List Stimulus), 0 < clkHz → s.Legal → NoReset s.inputs →
    edgeEvent s = .accept i → s.inputs.tail = .request (encode j) :: l →
    ∀ k : Nat, k < latency + frameCycles clkHz (segs j (tempAfter s.temp i)) → ∃ t : State,
      duringCycle clkHz latency (latency + frameCycles clkHz (segs i s.temp) + k) s = .next t ∧
      t.irGate = gateAt latency ((segs j (tempAfter s.temp i)).map (Segment.inCycles clkHz)) k ∧ t.busy = true ∧
      t.temp = tempAfter (tempAfter s.temp i) j

/-- The clock. A duration is exact in clock cycles where it is a whole number of them, and is less than one cycle too long
elsewhere; that it is rounded up is the model's choice (log 12). With a clock of m MHz the line after k cycles is
what it is after k / m µs, so a frame lasts exactly the durations the spec states (40_pulse_generator.md R84, R85); at
1 MHz or less the counter needs 17 bits (10_state.md R28). -/
def Obligations.ClockCyclesOfDurations : Prop :=
  (∀ clkHz d : Nat, d * clkHz ≤ cyclesOf clkHz d * 1000000 ∧ cyclesOf clkHz d * 1000000 < d * clkHz + 1000000) ∧
  (∀ (m : Nat) (l : List Segment) (k : Nat), 0 < m →
    levelAt (l.map (Segment.inCycles (m * 1000000))) k = levelAt l (k / m) ∧
      frameCycles (m * 1000000) l = m * totalDuration l) ∧
  ∀ (clkHz : Nat) (s : State), clkHz ≤ 1000000 → s.RemainFits clkHz → s.remain < 2 ^ 17
end

