-- ==== Sys2Proof/Laws/Signal.lean ====
section
/-! SUPPORT. The small lemmas of ENCODE, of segments and of their times. -/

namespace Sys2Proof

@[simp] theorem encodeBits_zero (v : Nat) : encodeBits v 0 = [] := rfl

/-- ENCODE of one bit more appends that bit's symbol. -/
theorem encodeBits_succ (v n : Nat) : encodeBits v (n + 1) = encodeBits v n ++ symbol (bit v n) := by
  simp [encodeBits, List.range_succ]

@[simp] theorem encodeBits_length (v n : Nat) : (encodeBits v n).length = 2 * n := by
  induction n with
  | zero => rfl
  | succ n ih => rw [encodeBits_succ, List.length_append, ih]; simp [symbol]; omega

/-- From bit `i` on, ENCODE gives that bit's mark, its space, and the rest. -/
theorem encodeBits_drop {v n i : Nat} (h : i < n) :
    (encodeBits v n).drop (2 * i) =
      .mark symbolMark :: .space (symbolSpace (bit v i)) :: (encodeBits v n).drop (2 * i + 2) := by
  induction n with
  | zero => omega
  | succ n ih =>
    rw [encodeBits_succ]
    rcases Nat.lt_or_ge i n with hi | hi
    · rw [List.drop_append_of_le_length (by simp; omega), ih hi,
        List.drop_append_of_le_length (by simp; omega)]
      rfl
    · obtain rfl : i = n := by omega
      have h0 : (encodeBits v i).drop (2 * i) = [] := List.drop_eq_nil_of_le (by simp)
      have h2 : (encodeBits v i).drop (2 * i + 2) = [] := List.drop_eq_nil_of_le (by simp)
      rw [List.drop_append, List.drop_append]
      simp [symbol, h0, h2]

@[simp] theorem totalDuration_nil : totalDuration [] = 0 := rfl

@[simp] theorem totalDuration_cons (g : Segment) (l : List Segment) :
    totalDuration (g :: l) = g.duration + totalDuration l := rfl

@[simp] theorem totalDuration_append (l m : List Segment) :
    totalDuration (l ++ m) = totalDuration l + totalDuration m := by simp [totalDuration]

@[simp] theorem markTime_append (l m : List Segment) : markTime (l ++ m) = markTime l + markTime m := by
  simp [markTime]

@[simp] theorem spaceTime_append (l m : List Segment) : spaceTime (l ++ m) = spaceTime l + spaceTime m := by
  simp [spaceTime]

/-- The count of ones of one bit more. -/
theorem popcount_succ (v n : Nat) : popcount v (n + 1) = popcount v n + (bit v n).toNat := by
  simp only [popcount, List.range_succ, List.filter_append, List.length_append]
  cases h : bit v n <;> simp [h]

/-- The time of one symbol. -/
theorem totalDuration_symbol (b : Bool) : totalDuration (symbol b) = 1120 + 1120 * b.toNat := by cases b <;> rfl

end Sys2Proof
end

