-- ==== Sys2Proof/Laws/State.lean ====
section
/-! SUPPORT. One lemma per field per update of the state, and what the ports read after an update. -/

namespace Sys2Proof.Machine

/-! ### `emit` -/

@[simp] theorem State.emit_busy (g : Segment) (s : State) : (s.emit g).busy = s.busy := rfl
@[simp] theorem State.emit_irGate (g : Segment) (s : State) : (s.emit g).irGate = s.irGate := rfl
@[simp] theorem State.emit_temp (g : Segment) (s : State) : (s.emit g).temp = s.temp := rfl
@[simp] theorem State.emit_p0Val (g : Segment) (s : State) : (s.emit g).p0Val = s.p0Val := rfl
@[simp] theorem State.emit_p0Cnt (g : Segment) (s : State) : (s.emit g).p0Cnt = s.p0Cnt := rfl
@[simp] theorem State.emit_p1Val (g : Segment) (s : State) : (s.emit g).p1Val = s.p1Val := rfl
@[simp] theorem State.emit_p1Cnt (g : Segment) (s : State) : (s.emit g).p1Cnt = s.p1Cnt := rfl
@[simp] theorem State.emit_proto (g : Segment) (s : State) : (s.emit g).proto = s.proto := rfl
@[simp] theorem State.emit_step (g : Segment) (s : State) : (s.emit g).step = s.step := rfl
@[simp] theorem State.emit_bitIdx (g : Segment) (s : State) : (s.emit g).bitIdx = s.bitIdx := rfl
@[simp] theorem State.emit_half (g : Segment) (s : State) : (s.emit g).half = s.half := rfl
@[simp] theorem State.emit_remain (g : Segment) (s : State) : (s.emit g).remain = s.remain := rfl
@[simp] theorem State.emit_latencyLeft (g : Segment) (s : State) : (s.emit g).latencyLeft = s.latencyLeft := rfl
@[simp] theorem State.emit_trace (g : Segment) (s : State) : (s.emit g).trace = s.trace ++ [g] := rfl
@[simp] theorem State.emit_inputs (g : Segment) (s : State) : (s.emit g).inputs = s.inputs := rfl

/-! ### `emitMark` -/

@[simp] theorem State.emitMark_busy (d : Nat) (s : State) : (s.emitMark d).busy = s.busy := rfl
@[simp] theorem State.emitMark_irGate (d : Nat) (s : State) : (s.emitMark d).irGate = true := rfl
@[simp] theorem State.emitMark_temp (d : Nat) (s : State) : (s.emitMark d).temp = s.temp := rfl
@[simp] theorem State.emitMark_p0Val (d : Nat) (s : State) : (s.emitMark d).p0Val = s.p0Val := rfl
@[simp] theorem State.emitMark_p0Cnt (d : Nat) (s : State) : (s.emitMark d).p0Cnt = s.p0Cnt := rfl
@[simp] theorem State.emitMark_p1Val (d : Nat) (s : State) : (s.emitMark d).p1Val = s.p1Val := rfl
@[simp] theorem State.emitMark_p1Cnt (d : Nat) (s : State) : (s.emitMark d).p1Cnt = s.p1Cnt := rfl
@[simp] theorem State.emitMark_proto (d : Nat) (s : State) : (s.emitMark d).proto = s.proto := rfl
@[simp] theorem State.emitMark_step (d : Nat) (s : State) : (s.emitMark d).step = s.step := rfl
@[simp] theorem State.emitMark_bitIdx (d : Nat) (s : State) : (s.emitMark d).bitIdx = s.bitIdx := rfl
@[simp] theorem State.emitMark_half (d : Nat) (s : State) : (s.emitMark d).half = s.half := rfl
@[simp] theorem State.emitMark_remain (d : Nat) (s : State) : (s.emitMark d).remain = s.remain := rfl
@[simp] theorem State.emitMark_latencyLeft (d : Nat) (s : State) : (s.emitMark d).latencyLeft = s.latencyLeft := rfl
@[simp] theorem State.emitMark_trace (d : Nat) (s : State) : (s.emitMark d).trace = s.trace ++ [.mark d] := rfl
@[simp] theorem State.emitMark_inputs (d : Nat) (s : State) : (s.emitMark d).inputs = s.inputs := rfl

/-! ### `emitSpace` -/

@[simp] theorem State.emitSpace_busy (d : Nat) (s : State) : (s.emitSpace d).busy = s.busy := rfl
@[simp] theorem State.emitSpace_irGate (d : Nat) (s : State) : (s.emitSpace d).irGate = false := rfl
@[simp] theorem State.emitSpace_temp (d : Nat) (s : State) : (s.emitSpace d).temp = s.temp := rfl
@[simp] theorem State.emitSpace_p0Val (d : Nat) (s : State) : (s.emitSpace d).p0Val = s.p0Val := rfl
@[simp] theorem State.emitSpace_p0Cnt (d : Nat) (s : State) : (s.emitSpace d).p0Cnt = s.p0Cnt := rfl
@[simp] theorem State.emitSpace_p1Val (d : Nat) (s : State) : (s.emitSpace d).p1Val = s.p1Val := rfl
@[simp] theorem State.emitSpace_p1Cnt (d : Nat) (s : State) : (s.emitSpace d).p1Cnt = s.p1Cnt := rfl
@[simp] theorem State.emitSpace_proto (d : Nat) (s : State) : (s.emitSpace d).proto = s.proto := rfl
@[simp] theorem State.emitSpace_step (d : Nat) (s : State) : (s.emitSpace d).step = s.step := rfl
@[simp] theorem State.emitSpace_bitIdx (d : Nat) (s : State) : (s.emitSpace d).bitIdx = s.bitIdx := rfl
@[simp] theorem State.emitSpace_half (d : Nat) (s : State) : (s.emitSpace d).half = s.half := rfl
@[simp] theorem State.emitSpace_remain (d : Nat) (s : State) : (s.emitSpace d).remain = s.remain := rfl
@[simp] theorem State.emitSpace_latencyLeft (d : Nat) (s : State) : (s.emitSpace d).latencyLeft = s.latencyLeft := rfl
@[simp] theorem State.emitSpace_trace (d : Nat) (s : State) : (s.emitSpace d).trace = s.trace ++ [.space d] := rfl
@[simp] theorem State.emitSpace_inputs (d : Nat) (s : State) : (s.emitSpace d).inputs = s.inputs := rfl

/-! ### `release` -/

@[simp] theorem State.release_busy (s : State) : (s.release).busy = s.busy := rfl
@[simp] theorem State.release_irGate (s : State) : (s.release).irGate = false := rfl
@[simp] theorem State.release_temp (s : State) : (s.release).temp = s.temp := rfl
@[simp] theorem State.release_p0Val (s : State) : (s.release).p0Val = s.p0Val := rfl
@[simp] theorem State.release_p0Cnt (s : State) : (s.release).p0Cnt = s.p0Cnt := rfl
@[simp] theorem State.release_p1Val (s : State) : (s.release).p1Val = s.p1Val := rfl
@[simp] theorem State.release_p1Cnt (s : State) : (s.release).p1Cnt = s.p1Cnt := rfl
@[simp] theorem State.release_proto (s : State) : (s.release).proto = s.proto := rfl
@[simp] theorem State.release_step (s : State) : (s.release).step = s.step := rfl
@[simp] theorem State.release_bitIdx (s : State) : (s.release).bitIdx = s.bitIdx := rfl
@[simp] theorem State.release_half (s : State) : (s.release).half = s.half := rfl
@[simp] theorem State.release_remain (s : State) : (s.release).remain = s.remain := rfl
@[simp] theorem State.release_latencyLeft (s : State) : (s.release).latencyLeft = s.latencyLeft := rfl
@[simp] theorem State.release_trace (s : State) : (s.release).trace = s.trace ++ [.release] := rfl
@[simp] theorem State.release_inputs (s : State) : (s.release).inputs = s.inputs := rfl

/-! ### `accept` -/

@[simp] theorem State.accept_busy (p : Payloads) (t : Temp) (s : State) : (s.accept p t).busy = true := rfl
@[simp] theorem State.accept_irGate (p : Payloads) (t : Temp) (s : State) : (s.accept p t).irGate = s.irGate := rfl
@[simp] theorem State.accept_temp (p : Payloads) (t : Temp) (s : State) : (s.accept p t).temp = t := rfl
@[simp] theorem State.accept_p0Val (p : Payloads) (t : Temp) (s : State) : (s.accept p t).p0Val = p.v0 := rfl
@[simp] theorem State.accept_p0Cnt (p : Payloads) (t : Temp) (s : State) : (s.accept p t).p0Cnt = p.n0 := rfl
@[simp] theorem State.accept_p1Val (p : Payloads) (t : Temp) (s : State) : (s.accept p t).p1Val = p.v1 := rfl
@[simp] theorem State.accept_p1Cnt (p : Payloads) (t : Temp) (s : State) : (s.accept p t).p1Cnt = p.n1 := rfl
@[simp] theorem State.accept_proto (p : Payloads) (t : Temp) (s : State) : (s.accept p t).proto = p.proto := rfl
@[simp] theorem State.accept_step (p : Payloads) (t : Temp) (s : State) : (s.accept p t).step = 0#4 := rfl
@[simp] theorem State.accept_bitIdx (p : Payloads) (t : Temp) (s : State) : (s.accept p t).bitIdx = 0#6 := rfl
@[simp] theorem State.accept_half (p : Payloads) (t : Temp) (s : State) : (s.accept p t).half = false := rfl
@[simp] theorem State.accept_remain (p : Payloads) (t : Temp) (s : State) : (s.accept p t).remain = s.remain := rfl
@[simp] theorem State.accept_latencyLeft (p : Payloads) (t : Temp) (s : State) : (s.accept p t).latencyLeft = s.latencyLeft := rfl
@[simp] theorem State.accept_trace (p : Payloads) (t : Temp) (s : State) : (s.accept p t).trace = [] := rfl
@[simp] theorem State.accept_inputs (p : Payloads) (t : Temp) (s : State) : (s.accept p t).inputs = s.inputs := rfl

/-! ### `resetRegisters` -/

@[simp] theorem State.resetRegisters_busy (s : State) : (s.resetRegisters).busy = false := rfl
@[simp] theorem State.resetRegisters_irGate (s : State) : (s.resetRegisters).irGate = false := rfl
@[simp] theorem State.resetRegisters_temp (s : State) : (s.resetRegisters).temp = 22#5 := rfl
@[simp] theorem State.resetRegisters_p0Val (s : State) : (s.resetRegisters).p0Val = 0#35 := rfl
@[simp] theorem State.resetRegisters_p0Cnt (s : State) : (s.resetRegisters).p0Cnt = 0#6 := rfl
@[simp] theorem State.resetRegisters_p1Val (s : State) : (s.resetRegisters).p1Val = 0#35 := rfl
@[simp] theorem State.resetRegisters_p1Cnt (s : State) : (s.resetRegisters).p1Cnt = 0#6 := rfl
@[simp] theorem State.resetRegisters_proto (s : State) : (s.resetRegisters).proto = .nec := rfl
@[simp] theorem State.resetRegisters_step (s : State) : (s.resetRegisters).step = 0#4 := rfl
@[simp] theorem State.resetRegisters_bitIdx (s : State) : (s.resetRegisters).bitIdx = 0#6 := rfl
@[simp] theorem State.resetRegisters_half (s : State) : (s.resetRegisters).half = false := rfl
@[simp] theorem State.resetRegisters_remain (s : State) : (s.resetRegisters).remain = 0 := rfl
@[simp] theorem State.resetRegisters_latencyLeft (s : State) : (s.resetRegisters).latencyLeft = 0 := rfl
@[simp] theorem State.resetRegisters_trace (s : State) : (s.resetRegisters).trace = s.trace := rfl
@[simp] theorem State.resetRegisters_inputs (s : State) : (s.resetRegisters).inputs = s.inputs := rfl

/-! ### `present` -/

@[simp] theorem State.present_busy (c : Code) (s : State) : (s.present c).busy = false := rfl
@[simp] theorem State.present_irGate (c : Code) (s : State) : (s.present c).irGate = s.irGate := rfl
@[simp] theorem State.present_temp (c : Code) (s : State) : (s.present c).temp = s.temp := rfl
@[simp] theorem State.present_p0Val (c : Code) (s : State) : (s.present c).p0Val = s.p0Val := rfl
@[simp] theorem State.present_p0Cnt (c : Code) (s : State) : (s.present c).p0Cnt = s.p0Cnt := rfl
@[simp] theorem State.present_p1Val (c : Code) (s : State) : (s.present c).p1Val = s.p1Val := rfl
@[simp] theorem State.present_p1Cnt (c : Code) (s : State) : (s.present c).p1Cnt = s.p1Cnt := rfl
@[simp] theorem State.present_proto (c : Code) (s : State) : (s.present c).proto = s.proto := rfl
@[simp] theorem State.present_step (c : Code) (s : State) : (s.present c).step = s.step := rfl
@[simp] theorem State.present_bitIdx (c : Code) (s : State) : (s.present c).bitIdx = s.bitIdx := rfl
@[simp] theorem State.present_half (c : Code) (s : State) : (s.present c).half = s.half := rfl
@[simp] theorem State.present_remain (c : Code) (s : State) : (s.present c).remain = s.remain := rfl
@[simp] theorem State.present_latencyLeft (c : Code) (s : State) : (s.present c).latencyLeft = s.latencyLeft := rfl
@[simp] theorem State.present_trace (c : Code) (s : State) : (s.present c).trace = s.trace := rfl
@[simp] theorem State.present_inputs (c : Code) (s : State) : (s.present c).inputs = .request c :: s.inputs := rfl

/-! ### `sendMark` -/

@[simp] theorem State.sendMark_busy (s : State) : (s.sendMark).busy = s.busy := rfl
@[simp] theorem State.sendMark_irGate (s : State) : (s.sendMark).irGate = true := rfl
@[simp] theorem State.sendMark_temp (s : State) : (s.sendMark).temp = s.temp := rfl
@[simp] theorem State.sendMark_p0Val (s : State) : (s.sendMark).p0Val = s.p0Val := rfl
@[simp] theorem State.sendMark_p0Cnt (s : State) : (s.sendMark).p0Cnt = s.p0Cnt := rfl
@[simp] theorem State.sendMark_p1Val (s : State) : (s.sendMark).p1Val = s.p1Val := rfl
@[simp] theorem State.sendMark_p1Cnt (s : State) : (s.sendMark).p1Cnt = s.p1Cnt := rfl
@[simp] theorem State.sendMark_proto (s : State) : (s.sendMark).proto = s.proto := rfl
@[simp] theorem State.sendMark_step (s : State) : (s.sendMark).step = s.step := rfl
@[simp] theorem State.sendMark_bitIdx (s : State) : (s.sendMark).bitIdx = s.bitIdx := rfl
@[simp] theorem State.sendMark_half (s : State) : (s.sendMark).half = true := rfl
@[simp] theorem State.sendMark_remain (s : State) : (s.sendMark).remain = s.remain := rfl
@[simp] theorem State.sendMark_latencyLeft (s : State) : (s.sendMark).latencyLeft = s.latencyLeft := rfl
@[simp] theorem State.sendMark_trace (s : State) : (s.sendMark).trace = s.trace ++ [.mark symbolMark] := rfl
@[simp] theorem State.sendMark_inputs (s : State) : (s.sendMark).inputs = s.inputs := rfl

/-! ### `sendSpace` -/

@[simp] theorem State.sendSpace_busy (k : Slot) (s : State) : (s.sendSpace k).busy = s.busy := rfl
@[simp] theorem State.sendSpace_irGate (k : Slot) (s : State) : (s.sendSpace k).irGate = false := rfl
@[simp] theorem State.sendSpace_temp (k : Slot) (s : State) : (s.sendSpace k).temp = s.temp := rfl
@[simp] theorem State.sendSpace_p0Val (k : Slot) (s : State) : (s.sendSpace k).p0Val = s.p0Val := rfl
@[simp] theorem State.sendSpace_p0Cnt (k : Slot) (s : State) : (s.sendSpace k).p0Cnt = s.p0Cnt := rfl
@[simp] theorem State.sendSpace_p1Val (k : Slot) (s : State) : (s.sendSpace k).p1Val = s.p1Val := rfl
@[simp] theorem State.sendSpace_p1Cnt (k : Slot) (s : State) : (s.sendSpace k).p1Cnt = s.p1Cnt := rfl
@[simp] theorem State.sendSpace_proto (k : Slot) (s : State) : (s.sendSpace k).proto = s.proto := rfl
@[simp] theorem State.sendSpace_step (k : Slot) (s : State) : (s.sendSpace k).step = s.step := rfl
@[simp] theorem State.sendSpace_bitIdx (k : Slot) (s : State) : (s.sendSpace k).bitIdx = s.bitIdx + 1#6 := rfl
@[simp] theorem State.sendSpace_half (k : Slot) (s : State) : (s.sendSpace k).half = false := rfl
@[simp] theorem State.sendSpace_remain (k : Slot) (s : State) : (s.sendSpace k).remain = s.remain := rfl
@[simp] theorem State.sendSpace_latencyLeft (k : Slot) (s : State) :
    (s.sendSpace k).latencyLeft = s.latencyLeft := rfl
@[simp] theorem State.sendSpace_trace (k : Slot) (s : State) :
    (s.sendSpace k).trace = s.trace ++ [.space (symbolSpace (bit (s.slotVal k).toNat s.bitIdx.toNat))] := rfl
@[simp] theorem State.sendSpace_inputs (k : Slot) (s : State) : (s.sendSpace k).inputs = s.inputs := rfl

/-! ### `endEnc` -/

@[simp] theorem State.endEnc_busy (s : State) : (s.endEnc).busy = s.busy := rfl
@[simp] theorem State.endEnc_irGate (s : State) : (s.endEnc).irGate = s.irGate := rfl
@[simp] theorem State.endEnc_temp (s : State) : (s.endEnc).temp = s.temp := rfl
@[simp] theorem State.endEnc_p0Val (s : State) : (s.endEnc).p0Val = s.p0Val := rfl
@[simp] theorem State.endEnc_p0Cnt (s : State) : (s.endEnc).p0Cnt = s.p0Cnt := rfl
@[simp] theorem State.endEnc_p1Val (s : State) : (s.endEnc).p1Val = s.p1Val := rfl
@[simp] theorem State.endEnc_p1Cnt (s : State) : (s.endEnc).p1Cnt = s.p1Cnt := rfl
@[simp] theorem State.endEnc_proto (s : State) : (s.endEnc).proto = s.proto := rfl
@[simp] theorem State.endEnc_step (s : State) : (s.endEnc).step = s.step + 1#4 := rfl
@[simp] theorem State.endEnc_bitIdx (s : State) : (s.endEnc).bitIdx = 0#6 := rfl
@[simp] theorem State.endEnc_half (s : State) : (s.endEnc).half = false := rfl
@[simp] theorem State.endEnc_remain (s : State) : (s.endEnc).remain = s.remain := rfl
@[simp] theorem State.endEnc_latencyLeft (s : State) : (s.endEnc).latencyLeft = s.latencyLeft := rfl
@[simp] theorem State.endEnc_trace (s : State) : (s.endEnc).trace = s.trace := rfl
@[simp] theorem State.endEnc_inputs (s : State) : (s.endEnc).inputs = s.inputs := rfl

/-! ### `nextElement` -/

@[simp] theorem State.nextElement_busy (s : State) : (s.nextElement).busy = s.busy := rfl
@[simp] theorem State.nextElement_irGate (s : State) : (s.nextElement).irGate = s.irGate := rfl
@[simp] theorem State.nextElement_temp (s : State) : (s.nextElement).temp = s.temp := rfl
@[simp] theorem State.nextElement_p0Val (s : State) : (s.nextElement).p0Val = s.p0Val := rfl
@[simp] theorem State.nextElement_p0Cnt (s : State) : (s.nextElement).p0Cnt = s.p0Cnt := rfl
@[simp] theorem State.nextElement_p1Val (s : State) : (s.nextElement).p1Val = s.p1Val := rfl
@[simp] theorem State.nextElement_p1Cnt (s : State) : (s.nextElement).p1Cnt = s.p1Cnt := rfl
@[simp] theorem State.nextElement_proto (s : State) : (s.nextElement).proto = s.proto := rfl
@[simp] theorem State.nextElement_step (s : State) : (s.nextElement).step = s.step + 1#4 := rfl
@[simp] theorem State.nextElement_bitIdx (s : State) : (s.nextElement).bitIdx = s.bitIdx := rfl
@[simp] theorem State.nextElement_half (s : State) : (s.nextElement).half = s.half := rfl
@[simp] theorem State.nextElement_remain (s : State) : (s.nextElement).remain = s.remain := rfl
@[simp] theorem State.nextElement_latencyLeft (s : State) : (s.nextElement).latencyLeft = s.latencyLeft := rfl
@[simp] theorem State.nextElement_trace (s : State) : (s.nextElement).trace = s.trace := rfl
@[simp] theorem State.nextElement_inputs (s : State) : (s.nextElement).inputs = s.inputs := rfl

/-! ### `endFrame` -/

@[simp] theorem State.endFrame_busy (s : State) : (s.endFrame).busy = false := rfl
@[simp] theorem State.endFrame_irGate (s : State) : (s.endFrame).irGate = false := rfl
@[simp] theorem State.endFrame_temp (s : State) : (s.endFrame).temp = s.temp := rfl
@[simp] theorem State.endFrame_p0Val (s : State) : (s.endFrame).p0Val = s.p0Val := rfl
@[simp] theorem State.endFrame_p0Cnt (s : State) : (s.endFrame).p0Cnt = s.p0Cnt := rfl
@[simp] theorem State.endFrame_p1Val (s : State) : (s.endFrame).p1Val = s.p1Val := rfl
@[simp] theorem State.endFrame_p1Cnt (s : State) : (s.endFrame).p1Cnt = s.p1Cnt := rfl
@[simp] theorem State.endFrame_proto (s : State) : (s.endFrame).proto = s.proto := rfl
@[simp] theorem State.endFrame_step (s : State) : (s.endFrame).step = s.step := rfl
@[simp] theorem State.endFrame_bitIdx (s : State) : (s.endFrame).bitIdx = s.bitIdx := rfl
@[simp] theorem State.endFrame_half (s : State) : (s.endFrame).half = s.half := rfl
@[simp] theorem State.endFrame_remain (s : State) : (s.endFrame).remain = s.remain := rfl
@[simp] theorem State.endFrame_latencyLeft (s : State) : (s.endFrame).latencyLeft = s.latencyLeft := rfl
@[simp] theorem State.endFrame_trace (s : State) : (s.endFrame).trace = s.trace ++ [.release] := rfl
@[simp] theorem State.endFrame_inputs (s : State) : (s.endFrame).inputs = s.inputs := rfl

/-! ### The payload slots, which only acceptance and reset write -/

@[simp] theorem State.slotVal_emitMark (k : Slot) (d : Nat) (s : State) : (s.emitMark d).slotVal k = s.slotVal k := by cases k <;> rfl
@[simp] theorem State.slotCnt_emitMark (k : Slot) (d : Nat) (s : State) : (s.emitMark d).slotCnt k = s.slotCnt k := by cases k <;> rfl
@[simp] theorem State.slotVal_emitSpace (k : Slot) (d : Nat) (s : State) : (s.emitSpace d).slotVal k = s.slotVal k := by cases k <;> rfl
@[simp] theorem State.slotCnt_emitSpace (k : Slot) (d : Nat) (s : State) : (s.emitSpace d).slotCnt k = s.slotCnt k := by cases k <;> rfl
@[simp] theorem State.slotVal_sendMark (k : Slot) (s : State) : s.sendMark.slotVal k = s.slotVal k := by cases k <;> rfl
@[simp] theorem State.slotCnt_sendMark (k : Slot) (s : State) : s.sendMark.slotCnt k = s.slotCnt k := by cases k <;> rfl
@[simp] theorem State.slotVal_sendSpace (k : Slot) (j : Slot) (s : State) : (s.sendSpace j).slotVal k = s.slotVal k := by cases k <;> rfl
@[simp] theorem State.slotCnt_sendSpace (k : Slot) (j : Slot) (s : State) : (s.sendSpace j).slotCnt k = s.slotCnt k := by cases k <;> rfl
@[simp] theorem State.slotVal_endEnc (k : Slot) (s : State) : s.endEnc.slotVal k = s.slotVal k := by cases k <;> rfl
@[simp] theorem State.slotCnt_endEnc (k : Slot) (s : State) : s.endEnc.slotCnt k = s.slotCnt k := by cases k <;> rfl
@[simp] theorem State.slotVal_nextElement (k : Slot) (s : State) : s.nextElement.slotVal k = s.slotVal k := by cases k <;> rfl
@[simp] theorem State.slotCnt_nextElement (k : Slot) (s : State) : s.nextElement.slotCnt k = s.slotCnt k := by cases k <;> rfl
@[simp] theorem State.slotVal_endFrame (k : Slot) (s : State) : s.endFrame.slotVal k = s.slotVal k := by cases k <;> rfl
@[simp] theorem State.slotCnt_endFrame (k : Slot) (s : State) : s.endFrame.slotCnt k = s.slotCnt k := by cases k <;> rfl

/-! ### The ports -/

@[simp] theorem State.rst_nil (s : State) (h : s.inputs = []) : s.rst = false := by simp [State.rst, h]
@[simp] theorem State.rst_request (s : State) (c : Code) (l : List Stimulus) (h : s.inputs = .request c :: l) :
    s.rst = false := by simp [State.rst, h]
@[simp] theorem State.rst_level (s : State) (r v : Bool) (c : Code) (l : List Stimulus)
    (h : s.inputs = .level r v c :: l) : s.rst = r := by simp [State.rst, h]
theorem State.rst_congr {s t : State} (h : s.inputs = t.inputs) : s.rst = t.rst := by simp [State.rst, h]
theorem State.reqValid_congr {s t : State} (h : s.inputs = t.inputs) : s.reqValid = t.reqValid := by
  simp [State.reqValid, h]
theorem State.reqCode_congr {s t : State} (h : s.inputs = t.inputs) : s.reqCode = t.reqCode := by
  simp [State.reqCode, h]

/-- Resetting a core that holds its reset values changes nothing. -/
@[simp] theorem State.resetRegisters_idem (s : State) : s.resetRegisters.resetRegisters = s.resetRegisters := rfl
@[simp] theorem State.rst_resetRegisters (s : State) : s.resetRegisters.rst = s.rst := rfl

/-- The port `rst` of a state reads the head of its script. -/
theorem State.rst_eq_head (s : State) :
    s.rst = (s.inputs.head?.map Stimulus.assertsReset).getD false := by
  rcases hs : s.inputs with _ | ⟨_ | _, _⟩ <;> simp [State.rst, hs, Stimulus.assertsReset]

end Sys2Proof.Machine
end

