-- ==== Sys2Proof/Laws/Ops.lean ====
section
/-! SUPPORT. One lemma for each shared operation: what it can answer. -/

namespace Sys2Proof.Machine

/-! ### Outcomes -/

theorem mapNext_eq_next {f : State → State} {r : Result} {t : State} (h : mapNext f r = .next t) :
    ∃ u, r = .next u ∧ t = f u := by
  cases r <;> simp [mapNext] at h
  exact ⟨_, rfl, h.symm⟩

@[simp] theorem mapNext_next (f : State → State) (s : State) : mapNext f (.next s) = .next (f s) := rfl

theorem andThen_eq_next {r : Result} {f : State → Result} {t : State} (h : andThen r f = .next t) :
    ∃ u, r = .next u ∧ f u = .next t := by
  cases r <;> simp [andThen] at h
  exact ⟨_, rfl, h⟩

@[simp] theorem andThen_next (f : State → Result) (s : State) : andThen (.next s) f = f s := rfl

/-! ### The ports at the next edge -/

/-- Driving stimuli either leaves every register, or resets the core because they assert `rst`. -/
theorem State.drive_cases (l : List Stimulus) (s : State) :
    ((s.drive l).rst = false ∧ s.drive l = { s with inputs := l }) ∨
      ((s.drive l).rst = true ∧ s.drive l = ({ s with inputs := l } : State).resetRegisters) := by
  unfold State.drive
  split
  · next h => exact .inr ⟨h, rfl⟩
  · next h => exact .inl ⟨by simpa using h, rfl⟩

@[simp] theorem State.drive_inputs (l : List Stimulus) (s : State) : (s.drive l).inputs = l := by
  unfold State.drive; split <;> rfl

@[simp] theorem State.drive_trace (l : List Stimulus) (s : State) : (s.drive l).trace = s.trace := by
  unfold State.drive; split <;> rfl

/-- Stimuli that assert no reset change the ports only. -/
theorem State.drive_quiet {l : List Stimulus} (s : State) (h : NoReset l) : s.drive l = { s with inputs := l } := by
  have hr : ({ s with inputs := l } : State).rst = false := by
    rw [State.rst_eq_head]
    cases l with
    | nil => rfl
    | cons x l => simpa using h x (by simp)
  simp [State.drive, hr]

theorem heldInputs_subset (l : List Stimulus) : heldInputs l ⊆ l := by
  rcases l with _ | ⟨_ | _, _⟩ <;> simp [heldInputs]

theorem NoReset.held {l : List Stimulus} (h : NoReset l) : NoReset (heldInputs l) :=
  fun x hx => h x (heldInputs_subset l hx)

theorem NoReset.tail {l : List Stimulus} (h : NoReset l) : NoReset l.tail :=
  fun x hx => h x (List.mem_of_mem_tail hx)

theorem NoReset.rst {s : State} (h : NoReset s.inputs) : s.rst = false := by
  rw [State.rst_eq_head]
  cases hs : s.inputs with
  | nil => rfl
  | cons x l => simpa using h x (by simp [hs])

theorem scriptOf_noReset (p : List Instr) : NoReset (scriptOf p) := by
  intro x hx
  obtain ⟨i, -, rfl⟩ := List.mem_map.1 hx
  rfl

/-! ### The temperature mapper -/

theorem satInc_toNat (t : Temp) : (satInc t).toNat = min (t.toNat + 1) 30 := by
  have : min (t.toNat + 1) 30 < 32 := by omega
  exact (BitVec.toNat_ofNat _ _).trans (Nat.mod_eq_of_lt this)

theorem satDec_toNat (t : Temp) : (satDec t).toNat = max (t.toNat - 1) 16 := by
  have : max (t.toNat - 1) 16 < 32 := by have := t.isLt; omega
  exact (BitVec.toNat_ofNat _ _).trans (Nat.mod_eq_of_lt this)

/-- `TEMP_MAP` at a legal temperature reads the entry of its key. -/
theorem tempMap_eq_some {t : Temp} (h : 16 ≤ t.toNat ∧ t.toNat ≤ 30) :
    tempMap t = some ⟨tempTable.val.dataA ⟨t.toNat - 16, by omega⟩, tempTable.val.dataB ⟨t.toNat - 16, by omega⟩⟩ := by
  have hk : (BitVec.ofNat 4 (t.toNat - 16)).toNat = t.toNat - 16 := by
    simpa using Nat.mod_eq_of_lt (show t.toNat - 16 < 16 by omega)
  have hlt : t.toNat - 16 < 15 := by omega
  simp [tempMap, h, tempRom, hk, hlt]

/-- `TEMP_MAP` answers only at a legal temperature. -/
theorem tempMap_range {t : Temp} {e : TempEntry} (h : tempMap t = some e) : 16 ≤ t.toNat ∧ t.toNat ≤ 30 := by
  unfold tempMap at h
  split at h
  · assumption
  · cases h

/-! ### Acceptance -/

theorem acceptTemp_eq_next {t : Temp} {s u : State} (h : acceptTemp t s = .next u) :
    ∃ e, tempMap t = some e ∧ u = s.accept (tempPayloads e) t := by
  unfold acceptTemp at h
  split at h
  · next e he => exact ⟨e, he, by simpa using h.symm⟩
  · cases h

/-- A request that answers a next state has accepted what LOOKUP gives. -/
theorem exec_eq_next {i : Instr} {s u : State} (h : exec i s = .next u) :
    ∃ p t, lookup i.device i.command s.temp = some (p, t) ∧ u = s.accept p t := by
  cases i
  case acPlus =>
    obtain ⟨e, he, rfl⟩ := acceptTemp_eq_next h
    exact ⟨_, _, by simp [lookup, Instr.device, Instr.command, he], rfl⟩
  case acMinus =>
    obtain ⟨e, he, rfl⟩ := acceptTemp_eq_next h
    exact ⟨_, _, by simp [lookup, Instr.device, Instr.command, he], rfl⟩
  all_goals
    refine ⟨_, _, rfl, ?_⟩
    cases h
    rfl

/-- The protocol, the counts and the widths of what LOOKUP gives, and the new temperature. -/
theorem lookup_cases {i : Instr} {t : Temp} {p : Payloads} {u : Temp}
    (h : lookup i.device i.command t = some (p, u)) :
    (p.proto = .nec ∧ p.n0 = 16#6 ∧ p.n1 = 16#6 ∧ i.device = .tv ∨ p.proto = .ac ∧ p.n0 = 35#6 ∧ p.n1 = 31#6 ∧ i.device = .ac) ∧
      p.v0.toNat < 2 ^ p.n0.toNat ∧ p.v1.toNat < 2 ^ p.n1.toNat ∧
      (u = t ∨ 16 ≤ u.toNat ∧ u.toNat ≤ 30) := by
  have key : ∀ w e, tempMap w = some e → (tempPayloads e).v0.toNat < 2 ^ 35 ∧ (tempPayloads e).v1.toNat < 2 ^ 31 := by
    intro w e _
    refine ⟨e.dataA.isLt, ?_⟩
    have := e.dataB.isLt
    simp only [tempPayloads, BitVec.toNat_setWidth]
    omega
  cases i
  case acPlus =>
    simp only [lookup, Instr.device, Instr.command, Option.map_eq_some_iff, Prod.mk.injEq] at h
    obtain ⟨e, he, rfl, rfl⟩ := h
    exact ⟨.inr ⟨rfl, rfl, rfl, rfl⟩, (key _ _ he).1, (key _ _ he).2, .inr (tempMap_range he)⟩
  case acMinus =>
    simp only [lookup, Instr.device, Instr.command, Option.map_eq_some_iff, Prod.mk.injEq] at h
    obtain ⟨e, he, rfl, rfl⟩ := h
    exact ⟨.inr ⟨rfl, rfl, rfl, rfl⟩, (key _ _ he).1, (key _ _ he).2, .inr (tempMap_range he)⟩
  all_goals
    simp only [lookup, Instr.device, Instr.command, Option.some.injEq, Prod.mk.injEq] at h
    obtain ⟨rfl, rfl⟩ := h
    decide +revert

end Sys2Proof.Machine
end

