-- ==== Sys2Proof/Laws/Sequencer.lean ====
section
/-! SUPPORT. What a serializer step and a sequencer step can do. -/

namespace Sys2Proof.Machine

/-- A serializer step sends a mark, sends a space, or finishes the element (41_bitstream_serializer.md R91). -/
theorem serStep_cases {k : Slot} {s t : State} (h : serStep k s = .next t) :
    (s.slotCnt k).toNat ≤ 35 ∧
      ((s.bitIdx.toNat < (s.slotCnt k).toNat ∧ s.half = false ∧ t = s.sendMark) ∨
        (s.bitIdx.toNat < (s.slotCnt k).toNat ∧ s.half = true ∧ t = s.sendSpace k) ∨
        ((s.slotCnt k).toNat ≤ s.bitIdx.toNat ∧ t = s.endEnc)) := by
  unfold serStep at h
  split at h
  · cases h
  · next hc =>
    refine ⟨by omega, ?_⟩
    split at h
    · next hb =>
      split at h
      · next hh => cases h; exact .inr (.inl ⟨hb, hh, rfl⟩)
      · next hh => cases h; exact .inl ⟨hb, by simpa using hh, rfl⟩
    · next hb => cases h; exact .inr (.inr ⟨by omega, rfl⟩)

/-- A sequencer step runs the element at `{proto, step}` (40_pulse_generator.md R83). -/
theorem seqStep_cases {s t : State} (h : seqStep s = .next t) :
    (∃ d, progRom s.proto s.step = some (.mark d) ∧ t = (s.emitMark d).nextElement) ∨
      (∃ d, progRom s.proto s.step = some (.space d) ∧ t = (s.emitSpace d).nextElement) ∨
      (∃ k, progRom s.proto s.step = some (.enc k) ∧ serStep k s = .next t) ∨
      (progRom s.proto s.step = some .finish ∧ t = s.endFrame) := by
  unfold seqStep at h
  split at h
  · next e he =>
    cases e with
    | mark d => cases h; exact .inl ⟨d, he, rfl⟩
    | space d => cases h; exact .inr (.inl ⟨d, he, rfl⟩)
    | enc k => exact .inr (.inr (.inl ⟨k, he, h⟩))
    | finish => cases h; exact .inr (.inr (.inr ⟨he, rfl⟩))
  · cases h

/-- The registers that a sequencer step never writes. -/
theorem seqStep_frame {s t : State} (h : seqStep s = .next t) :
    t.temp = s.temp ∧ t.proto = s.proto ∧ (∀ k, t.slotVal k = s.slotVal k) ∧ (∀ k, t.slotCnt k = s.slotCnt k) ∧
      t.inputs = s.inputs := by
  obtain ⟨d, -, rfl⟩ | ⟨d, -, rfl⟩ | ⟨k, -, hk⟩ | ⟨-, rfl⟩ := seqStep_cases h
  · exact ⟨rfl, rfl, by simp, by simp, rfl⟩
  · exact ⟨rfl, rfl, by simp, by simp, rfl⟩
  · obtain ⟨-, ⟨-, -, rfl⟩ | ⟨-, -, rfl⟩ | ⟨-, rfl⟩⟩ := serStep_cases hk <;>
      exact ⟨rfl, rfl, by simp, by simp, rfl⟩
  · exact ⟨rfl, rfl, by simp, by simp, rfl⟩

/-! ### Positions in a frame program -/

/-- Before `END` there is a next element, and `step + 1` does not wrap. -/
theorem progRom_next {p : Protocol} {ix : StepIx} (h : progRom p ix ≠ none) (hf : progRom p ix ≠ some .finish) :
    (ix + 1#4).toNat = ix.toNat + 1 ∧ progRom p (ix + 1#4) ≠ none := by
  cases p <;> decide +revert

/-- The elements from `step` on. -/
theorem progRom_drop {p : Protocol} {ix : StepIx} {e : Element} (h : progRom p ix = some e) :
    (program p).drop ix.toNat = e :: (program p).drop (ix.toNat + 1) := by
  obtain ⟨hl, rfl⟩ := List.getElem?_eq_some_iff.1 h
  exact List.drop_eq_getElem_cons hl

/-- `END` is the last element. -/
theorem progRom_finish_last {p : Protocol} {ix : StepIx} (h : progRom p ix = some .finish) :
    (program p).drop (ix.toNat + 1) = [] := by
  cases p <;> decide +revert

/-! ### The segments still to be emitted (10_state.md R33) -/

theorem State.elementSegs_congr {s t : State} (hv : ∀ k, t.slotVal k = s.slotVal k)
    (hc : ∀ k, t.slotCnt k = s.slotCnt k) : t.elementSegs = s.elementSegs := by
  funext e; cases e <;> simp [State.elementSegs, hv, hc]

/-- At an element: the rest of its segments, and those of the elements after it. -/
theorem State.pending_at {s : State} {e : Element} (hb : s.busy = true) (he : progRom s.proto s.step = some e) :
    s.pending = (s.elementSegs e ++ ((program s.proto).drop (s.step.toNat + 1)).flatMap s.elementSegs).drop
      s.elementDone := by
  simp [State.pending, hb, progRom_drop he]

/-- At the start of the next element: the segments of the elements after this one, at a legal position. -/
theorem State.pending_next {s t : State} {e : Element} (hb : t.busy = true)
    (he : progRom s.proto s.step = some e) (hf : e ≠ .finish) (hp : t.proto = s.proto) (hs : t.step = s.step + 1#4)
    (h0 : t.bitIdx = 0#6) (h1 : t.half = false) (hv : ∀ k, t.slotVal k = s.slotVal k)
    (hc : ∀ k, t.slotCnt k = s.slotCnt k) :
    t.pending = ((program s.proto).drop (s.step.toNat + 1)).flatMap s.elementSegs ∧ t.PositionOk := by
  obtain ⟨h6, h7⟩ := progRom_next (p := s.proto) (ix := s.step) (by simp [he]) (by simpa [he] using hf)
  constructor
  · simp only [State.pending, hb, if_true, hp, hs, h6, State.elementDone, h0, h1, State.elementSegs_congr hv hc]
    rfl
  · unfold State.PositionOk
    rw [hp, hs]
    cases he2 : progRom s.proto (s.step + 1#4) with
    | none => exact absurd he2 h7
    | some e2 => cases e2 <;> simp [h0, h1]

/-- `progRom` holds an element exactly at the indices of the program. -/
theorem progRom_eq_none {p : Protocol} {ix : StepIx} : progRom p ix = none ↔ (program p).length ≤ ix.toNat := by
  simp [progRom]

end Sys2Proof.Machine
end

