-- ==== Sys2Proof/Laws/Step.lean ====
section
/-! SUPPORT. What one edge can do: the inversion lemmas of `edgeEvent` and `step`. -/

namespace Sys2Proof.Machine

theorem edgeEvent_reset {s : State} : edgeEvent s = .reset ↔ s.rst = true := by
  unfold edgeEvent; split
  · simp_all
  · split
    · simp_all
    · split <;> simp_all

theorem edgeEvent_accept {s : State} {i : Instr} :
    edgeEvent s = .accept i ↔ s.rst = false ∧ s.busy = false ∧ s.reqValid = true ∧ decodeReq s.reqCode = i := by
  unfold edgeEvent; split
  · simp_all
  · split
    · simp_all
    · split <;> simp_all

theorem edgeEvent_sequence {s : State} : edgeEvent s = .sequence ↔ s.rst = false ∧ s.busy = true := by
  unfold edgeEvent; split
  · simp_all
  · split
    · simp_all
    · split <;> simp_all

theorem edgeEvent_idle {s : State} :
    edgeEvent s = .idle ↔ s.rst = false ∧ s.busy = false ∧ s.reqValid = false := by
  unfold edgeEvent; split
  · simp_all
  · split
    · simp_all
    · split <;> simp_all

/-- A step resets the core, accepts a request, runs the sequencer, or leaves the idle core as it is; then the next stimuli
drive the ports. -/
theorem step_cases {s t : State} (h : step s = .next t) :
    (s.rst = true ∧ t = resetEdge s) ∨
      (∃ i u, edgeEvent s = .accept i ∧ exec i s = .next u ∧ t = u.afterAccept) ∨
      (∃ u, edgeEvent s = .sequence ∧ seqStep s = .next u ∧ t = u.afterEdge) ∨
      (edgeEvent s = .idle ∧ t = s.afterEdge) := by
  unfold step at h
  split at h
  · next he => cases h; exact .inl ⟨edgeEvent_reset.1 he, rfl⟩
  · next i he =>
    obtain ⟨u, hu, rfl⟩ := mapNext_eq_next h
    exact .inr (.inl ⟨i, u, he, hu, rfl⟩)
  · next he =>
    obtain ⟨u, hu, rfl⟩ := mapNext_eq_next h
    exact .inr (.inr (.inl ⟨u, he, hu, rfl⟩))
  · next he => cases h; exact .inr (.inr (.inr ⟨he, rfl⟩))

/-- The named run is the host's run: one more step at its front. -/
theorem run_succ (k : Nat) (s : State) : run (k + 1) s = andThen (step s) (run k) := by
  have h : Sys2Proof.core.step s = step s := rfl
  simp only [run, Host.Core.run, h]
  cases step s <;> rfl

@[simp] theorem run_zero (s : State) : run 0 s = .next s := rfl

end Sys2Proof.Machine
end

