-- ==== Sys2Proof/Laws/Legal.lean ====
section
/-! SUPPORT. What acceptance, reset and the ports do to the invariants: the small lemmas the invariant proofs cite. -/

namespace Sys2Proof.Machine

/-- A core held in reset is legal, whatever stands on its ports. -/
theorem State.resetRegisters_legal (s : State) : s.resetRegisters.Legal :=
  ⟨by simp, fun _ => rfl, fun h => by simp at h, fun _ => rfl⟩

/-- Driving the ports gives a legal state from registers that are legal but for the reset port. -/
theorem State.drive_legal {s : State} (l : List Stimulus) (ht : 16 ≤ s.temp.toNat ∧ s.temp.toNat ≤ 30)
    (hd : s.busy = false → s.irGate = false) (hf : s.busy = true → s.FrameOk) : (s.drive l).Legal := by
  obtain ⟨hr, h⟩ | ⟨-, h⟩ := State.drive_cases l s
  · rw [h] at hr ⊢
    refine ⟨ht, hd, fun hb => ?_, fun hx => by simp [hr] at hx⟩
    obtain ⟨a, b, c, d, e, f⟩ := hf hb
    exact ⟨a, b, c, d, e, f⟩
  · rw [h]; exact State.resetRegisters_legal _

/-- A core that is still busy after its ports were driven was not reset. -/
theorem State.drive_busy {l : List Stimulus} {s : State} (h : (s.drive l).busy = true) :
    s.drive l = { s with inputs := l } ∧ s.busy = true := by
  obtain ⟨-, hd⟩ | ⟨-, hd⟩ := State.drive_cases l s
  · rw [hd] at h; exact ⟨hd, h⟩
  · rw [hd] at h; simp at h

/-- The counts of a well-placed frame are at most 35. -/
theorem State.FrameOk.counts {s : State} (h : s.FrameOk) (k : Slot) : (s.slotCnt k).toNat ≤ 35 := by
  have h0 := h.count0
  have h1 := h.count1
  cases k <;> cases hp : s.proto <;> simp_all [State.slotCnt, protocolCount]

@[simp] theorem lastLevel_append (l : List Segment) (g : Segment) : lastLevel (l ++ [g]) = g.level := by
  simp [lastLevel]

/-- LOOKUP answers at every legal temperature. -/
theorem lookup_isSome (i : Instr) {t : Temp} (h : 16 ≤ t.toNat ∧ t.toNat ≤ 30) :
    ∃ r, lookup i.device i.command t = some r := by
  have e1 := tempMap_eq_some (t := satInc t) (by rw [satInc_toNat]; omega)
  have e2 := tempMap_eq_some (t := satDec t) (by rw [satDec_toNat]; omega)
  cases i <;> simp [lookup, Instr.device, Instr.command, e1, e2]

/-- Where LOOKUP answers, the request accepts what it gives. -/
theorem exec_of_lookup {i : Instr} {s : State} {p : Payloads} {t : Temp}
    (h : lookup i.device i.command s.temp = some (p, t)) : exec i s = .next (s.accept p t) := by
  cases i
  case acPlus =>
    simp only [lookup, Instr.device, Instr.command, Option.map_eq_some_iff, Prod.mk.injEq] at h
    obtain ⟨e, he, rfl, rfl⟩ := h
    simp [exec, execAcPlus, acceptTemp, he]
  case acMinus =>
    simp only [lookup, Instr.device, Instr.command, Option.map_eq_some_iff, Prod.mk.injEq] at h
    obtain ⟨e, he, rfl, rfl⟩ := h
    simp [exec, execAcMinus, acceptTemp, he]
  all_goals
    simp only [lookup, Instr.device, Instr.command, Option.some.injEq, Prod.mk.injEq] at h
    obtain ⟨rfl, rfl⟩ := h
    rfl

/-- An accepted request has its whole segment list still to emit. -/
theorem exec_pending {i : Instr} {s u : State} (h : exec i s = .next u) :
    u.busy = true ∧ u.trace = [] ∧ u.pending = segs i s.temp ∧ u.temp = tempAfter s.temp i ∧ u.inputs = s.inputs := by
  obtain ⟨p, t, hl, rfl⟩ := exec_eq_next h
  refine ⟨rfl, rfl, ?_, by simp [tempAfter, dispatch, hl], rfl⟩
  simp only [segs, dispatch, hl, State.pending, State.accept_busy, State.elementDone, Option.map_some,
    Option.getD_some, frameOf, State.accept_proto]
  cases hp : p.proto <;>
    simp [program, necProg, acProg, State.elementSegs, necFrame, acFrame, State.slotVal, State.slotCnt]

/-- An accepted request starts a well-placed frame. -/
theorem exec_frameOk {i : Instr} {s u : State} (h : exec i s = .next u) (hd : s.irGate = false) : u.FrameOk := by
  obtain ⟨p, t, hl, rfl⟩ := exec_eq_next h
  obtain ⟨hc, hf0, hf1, -⟩ := lookup_cases hl
  have hpos : (s.accept p t).PositionOk := by
    unfold State.PositionOk
    simp only [State.accept_proto, State.accept_step]
    cases p.proto <;> simp [progRom, program, necProg, acProg]
  refine ⟨?_, ?_, hf0, hf1, hpos, by simpa [lastLevel] using hd⟩
  · obtain ⟨a, b, -⟩ | ⟨a, b, -⟩ := hc <;> simp [a, b, protocolCount]
  · obtain ⟨a, -, c, -⟩ | ⟨a, -, c, -⟩ := hc <;> simp [a, c, protocolCount]

end Sys2Proof.Machine
end

