-- ==== Sys2Proof/Laws/PerInstr.lean ====
section
/-! SUPPORT. Facts stated per request: the encoding round trip. -/

namespace Sys2Proof.Laws.Encoding

/-- The request is well formed, its fields are its device and command, and its byte decodes to it alone. -/
def Statement (i : Instr) : Prop :=
  i.wellFormed = true ∧ devField (encode i) = i.device ∧ cmdField (encode i) = i.command ∧
    decodeBytes (encodeBytes i) = .instr i []

theorem tvPowerOn : Statement .tvPowerOn := by unfold Statement; decide
theorem tvPowerOff : Statement .tvPowerOff := by unfold Statement; decide
theorem tvPlus : Statement .tvPlus := by unfold Statement; decide
theorem tvMinus : Statement .tvMinus := by unfold Statement; decide
theorem acPowerOn : Statement .acPowerOn := by unfold Statement; decide
theorem acPowerOff : Statement .acPowerOff := by unfold Statement; decide
theorem acPlus : Statement .acPlus := by unfold Statement; decide
theorem acMinus : Statement .acMinus := by unfold Statement; decide

end Sys2Proof.Laws.Encoding
end

