-- ==== Sys2Proof/Laws/Timed.lean ====
section
/-! SUPPORT. The time-level form: durations in clock cycles, and what one edge of it can do. -/

namespace Sys2Proof

/-- A duration in clock cycles is the least whole number of cycles that is not too short. -/
theorem cyclesOf_bounds (clkHz d : Nat) :
    d * clkHz ≤ cyclesOf clkHz d * 1000000 ∧ cyclesOf clkHz d * 1000000 < d * clkHz + 1000000 := by
  unfold cyclesOf; split <;> omega

theorem cyclesOf_pos {clkHz d : Nat} (hc : 0 < clkHz) (hd : 0 < d) : 0 < cyclesOf clkHz d := by
  have := Nat.mul_pos hd hc
  have := (cyclesOf_bounds clkHz d).1
  omega

theorem cyclesOf_mono {clkHz d e : Nat} (h : d ≤ e) : cyclesOf clkHz d ≤ cyclesOf clkHz e := by
  have := Nat.mul_le_mul_right clkHz h
  unfold cyclesOf
  split <;> split <;> omega

@[simp] theorem cyclesOf_zero (clkHz : Nat) : cyclesOf clkHz 0 = 0 := by simp [cyclesOf]

/-- At a whole number of MHz every duration is exact. -/
theorem cyclesOf_mhz (m d : Nat) : cyclesOf (m * 1000000) d = m * d := by
  have h : d * (m * 1000000) = m * d * 1000000 := by rw [← Nat.mul_assoc, Nat.mul_comm d m]
  unfold cyclesOf
  split <;> omega

@[simp] theorem Segment.inCycles_duration (clkHz : Nat) (g : Segment) :
    (g.inCycles clkHz).duration = cyclesOf clkHz g.duration := by
  cases g <;> simp [Segment.inCycles, Segment.duration]

@[simp] theorem Segment.inCycles_level (clkHz : Nat) (g : Segment) : (g.inCycles clkHz).level = g.level := by
  cases g <;> rfl

end Sys2Proof

namespace Sys2Proof.Machine

/-! ### The counters -/

@[simp] theorem State.startLatency_latencyLeft (latency : Nat) (s : State) :
    (s.startLatency latency).latencyLeft = latency := rfl
@[simp] theorem State.startLatency_remain (latency : Nat) (s : State) : (s.startLatency latency).remain = 0 := rfl
@[simp] theorem State.startLatency_untimed (latency : Nat) (s : State) :
    (s.startLatency latency).untimed = s.untimed := rfl
@[simp] theorem State.loadRemain_remain (clkHz : Nat) (s t : State) :
    (s.loadRemain clkHz t).remain = cyclesOf clkHz (newDuration s t) := rfl
@[simp] theorem State.loadRemain_latencyLeft (clkHz : Nat) (s t : State) :
    (s.loadRemain clkHz t).latencyLeft = t.latencyLeft := rfl
@[simp] theorem State.loadRemain_untimed (clkHz : Nat) (s t : State) : (s.loadRemain clkHz t).untimed = t.untimed := rfl

/-- Driving the ports and the counters do not meet. -/
@[simp] theorem State.drive_untimed (l : List Stimulus) (s : State) : (s.drive l).untimed = s.untimed.drive l := by
  have h : ({ s.untimed with inputs := l } : State).rst = ({ s with inputs := l } : State).rst := rfl
  unfold State.drive
  rw [h]
  split <;> rfl

theorem newDuration_append {s t : State} {g : Segment} (h : t.trace = s.trace ++ [g]) : newDuration s t = g.duration := by
  simp [newDuration, h]

theorem newDuration_silent {s t : State} (h : t.trace = s.trace) : newDuration s t = 0 := by
  simp [newDuration, h]

/-! ### One edge -/

/-- The sequencer counts the latency down, counts the segment down, or runs one `SeqStep`. -/
theorem proceed_cases {clkHz : Nat} {s t : State} (h : proceed clkHz s = .next t) :
    (0 < s.latencyLeft ∧ t = { s with latencyLeft := s.latencyLeft - 1 }) ∨
      (s.latencyLeft = 0 ∧ 0 < s.remain ∧ t = { s with remain := s.remain - 1 }) ∨
      (s.latencyLeft = 0 ∧ s.remain = 0 ∧ ∃ u, seqStep s = .next u ∧ t = s.loadRemain clkHz u) := by
  unfold proceed at h
  split at h
  · next h1 => cases h; exact .inl ⟨h1, rfl⟩
  · split at h
    · next h2 => cases h; exact .inr (.inl ⟨by omega, h2, rfl⟩)
    · exact .inr (.inr ⟨by omega, by omega, mapNext_eq_next h⟩)

/-- An edge of the time-level form resets the core, accepts a request, lets the sequencer proceed, or leaves the idle core
as it is; then the next stimuli drive the ports. -/
theorem timedEdge_cases {clkHz latency : Nat} {s t : State} (h : timedEdgeWith clkHz latency s = .next t) :
    (s.rst = true ∧ t = resetEdge s) ∨
      (∃ i u, edgeEvent s = .accept i ∧ exec i s = .next u ∧ t = (u.startLatency latency).afterAccept) ∨
      (∃ u, edgeEvent s = .sequence ∧ proceed clkHz s = .next u ∧ t = u.afterEdge) ∨
      (edgeEvent s = .idle ∧ t = s.afterEdge) := by
  unfold timedEdgeWith at h
  split at h
  · next he => cases h; exact .inl ⟨edgeEvent_reset.1 he, rfl⟩
  · next i he =>
    obtain ⟨u, hu, rfl⟩ := mapNext_eq_next h
    exact .inr (.inl ⟨i, u, he, hu, rfl⟩)
  · next he =>
    obtain ⟨u, hu, rfl⟩ := mapNext_eq_next h
    exact .inr (.inr (.inl ⟨u, he, hu, rfl⟩))
  · next he => cases h; exact .inr (.inr (.inr ⟨he, rfl⟩))

/-- An edge takes no time exactly where it accepts a request, or runs a `SeqStep`. -/
theorem edgeCycles_eq_zero {s : State} :
    s.edgeCycles = 0 ↔ (∃ i, edgeEvent s = .accept i) ∨
      (edgeEvent s = .sequence ∧ s.latencyLeft = 0 ∧ s.remain = 0) := by
  unfold State.edgeCycles
  split <;> simp_all

/-- Every edge takes one clock cycle or none. -/
theorem edgeCycles_le_one (s : State) : s.edgeCycles ≤ 1 := by
  unfold State.edgeCycles
  split <;> try split
  all_goals omega

/-! ### Instants and cycles -/

/-- The instant has ended where the next edge takes a cycle. -/
theorem settle_done (clkHz latency fuel : Nat) {s : State} (h : s.edgeCycles = 1) :
    settle clkHz latency fuel s = .next s := by
  cases fuel <;> simp [settle, h]

/-- An edge that takes no time belongs to the instant. -/
theorem settle_step (clkHz latency fuel : Nat) {s t : State} (h : s.edgeCycles = 0)
    (ht : timedEdgeWith clkHz latency s = .next t) :
    settle clkHz latency (fuel + 1) s = settle clkHz latency fuel t := by
  simp [settle, h, ht]

/-- An edge that takes a cycle brings the cycles after it one nearer. -/
theorem duringCycle_succ (clkHz latency k : Nat) {s t : State} (h : s.edgeCycles = 1)
    (ht : timedEdgeWith clkHz latency s = .next t) :
    duringCycle clkHz latency (k + 1) s = duringCycle clkHz latency k t := by
  simp [duringCycle, settle_done clkHz latency 3 h, ht]

end Sys2Proof.Machine
end

