-- ==== Sys2Proof/Tests/Slice0.lean ====
section
/-! SUPPORT. Tests: expected results come from spec/ (each test names the rule or vector), and a witness for each statement
that has hypotheses. -/

namespace Sys2Proof.Tests

open Sys2Proof.Machine

/-! ### WellFormed: each check refuses an ill-formed term -/

theorem test_wf_element_zero_mark : Element.wellFormed (.mark 0) = false := by decide
theorem test_wf_element_zero_space : Element.wellFormed (.space 0) = false := by decide
theorem test_wf_element_too_long_mark : Element.wellFormed (.mark 131072) = false := by decide
theorem test_wf_element_too_long_space : Element.wellFormed (.space 131072) = false := by decide
theorem test_wf_program_without_end : programWellFormed [.mark 560] = false := by decide
theorem test_wf_program_two_ends : programWellFormed [.finish, .finish] = false := by decide
theorem test_wf_program_bad_element : programWellFormed [.space 0, .finish] = false := by decide
theorem test_wf_program_too_long : programWellFormed (List.replicate 16 (.mark 1) ++ [.finish]) = false := by decide
theorem test_wf_count : countLegal 36#6 = false := by decide
theorem test_wf_temp_low : tempLegal 15#5 = false := by decide
theorem test_wf_temp_high : tempLegal 31#5 = false := by decide
theorem test_wf_payload : payloadFits 0x8#35 3#6 = false := by decide
theorem test_wf_request : Instr.wellFormed .tvPowerOn = true := by decide

/-! ### Encodings: words written out from 30_encoding.md R60, R62, R68 -/

theorem test_decode_tvPowerOn : decodeReq 0b000#3 = .tvPowerOn := by decide
theorem test_decode_tvPowerOff : decodeReq 0b001#3 = .tvPowerOff := by decide
theorem test_decode_tvPlus : decodeReq 0b010#3 = .tvPlus := by decide
theorem test_decode_tvMinus : decodeReq 0b011#3 = .tvMinus := by decide
theorem test_decode_acPowerOn : decodeReq 0b100#3 = .acPowerOn := by decide
theorem test_decode_acPowerOff : decodeReq 0b101#3 = .acPowerOff := by decide
theorem test_decode_acPlus : decodeReq 0b110#3 = .acPlus := by decide
theorem test_decode_acMinus : decodeReq 0b111#3 = .acMinus := by decide
theorem test_table_word : decodeTableWord 8 6 = some .acPlus ∧ decodeTableWord 3 6 = some .acPlus := by decide
theorem test_table_word_rejected : decodeTableWord 8 14 = none ∧ decodeTableWord 0 0 = none := by decide
theorem test_bytes_rejected_by_name : decodeBytes [0x0E#8] = .rejected .moreThanThreeBits ∧
    decodeBytes [] = .rejected .noByte := by decide
theorem test_bytes_rest : decodeBytes [0x07#8, 0xFF#8] = .instr .acMinus [0xFF#8] := by decide
theorem test_element_mark : decodeElement 0b00#2 8992#17 = .mark 8992 ∧ Element.kind (.mark 8992) = 0b00#2 := by decide
theorem test_element_space : decodeElement 0b01#2 96293#17 = .space 96293 := by decide
theorem test_element_enc : decodeElement 0b10#2 1#17 = .enc .p1 ∧ decodeElement 0b10#2 0#17 = .enc .p0 := by decide
theorem test_element_end : decodeElement 0b11#2 5#17 = .finish := by decide

/-- 95_test_vectors.md, Program 1, with its comments. -/
theorem test_assemble_program_1 :
    assemble ["AC.POWER_ON      ; 100".toList, "AC.PLUS          ; 110".toList, "; a comment".toList,
      "AC.POWER_OFF".toList] = some [.acPowerOn, .acPlus, .acPowerOff] := by decide
theorem test_assemble_toggle : assembleLine "TV.TOGGLE".toList = .request .tvPowerOn := by decide
theorem test_assemble_unknown : assembleLine "AC.TOGGLE".toList = .unknown ∧ assemble ["ac.plus".toList] = none := by
  decide

/-! ### Pulse generator and sequencer (vectors P-1, P-2, P-5, P-6) -/

/-- A busy core at an element. -/
def atElement (p : Protocol) (ix : StepIx) : State := { State.reset with busy := true, proto := p, step := ix }

theorem test_emit_mark : (State.reset.emitMark 8992).irGate = true ∧ (State.reset.emitMark 8992).trace = [.mark 8992] := by
  decide
theorem test_seq_nec_end : seqStep { atElement .nec 13#4 with irGate := true } =
    .next { atElement .nec 13#4 with busy := false, trace := [.release] } := rfl
theorem test_seq_ac_interframe : seqStep (atElement .ac 4#4) =
    .next { atElement .ac 4#4 with step := 5#4, trace := [.space 20654] } := rfl
theorem test_seq_nec_last_mark : seqStep (atElement .nec 12#4) =
    .next { atElement .nec 12#4 with step := 13#4, irGate := true, trace := [.mark 562] } := rfl
theorem test_seq_no_element : seqStep (atElement .ac 10#4) = .refused .noElement := rfl

/-! ### Serializer (41_bitstream_serializer.md R90, R91; vectors S-1 to S-12) -/

theorem test_encode_101 : encodeBits 0b101 3 = [.mark 560, .space 1680, .mark 560, .space 560, .mark 560, .space 1680] := by
  decide
theorem test_encode_zero_count : encodeBits 0x1234 0 = [] := by decide
theorem test_encode_7F00 : encodeBits 0x7F00 16 = symbolsOf [0, 0, 0, 0, 0, 0, 0, 0, 1, 1, 1, 1, 1, 1, 1, 0] ∧
    totalDuration (encodeBits 0x7F00 16) = 25760 ∧ decodeSymbols (encodeBits 0x7F00 16) = some 0x7F00 := by decide
theorem test_encode_above_width : encodeBits 1 35 = symbolsOf (1 :: List.replicate 34 0) := by decide
theorem test_encode_bit_32 : encodeBits 0x100000001 32 = encodeBits 1 32 := by decide

/-- The serializer in the middle of slot 0. -/
def inSlot0 (v : PayloadWord) (n ix : Count) (h : Bool) : State :=
  { atElement .ac 2#4 with p0Val := v, p0Cnt := n, bitIdx := ix, half := h }

/-- The example of 41_bitstream_serializer.md R91. -/
theorem test_ser_space : serStep .p0 (inSlot0 0b10#35 2#6 1#6 true) =
    .next { inSlot0 0b10#35 2#6 2#6 false with trace := [.space 1680] } := rfl
/-- S-10. -/
theorem test_ser_done : serStep .p0 (inSlot0 0#35 16#6 16#6 false) =
    .next { inSlot0 0#35 16#6 0#6 false with step := 3#4 } := rfl
theorem test_ser_36_refused : serStep .p0 (inSlot0 0#35 36#6 0#6 false) = .refused .countAbove35 := rfl

/-! ### Frames (A-1, A-2, A-4, N-1, N-2, F-1, F-3, F-4) -/

theorem test_ac_frame_small : acFrame 1 1 0 1 = [.mark 8992, .space 4496, .mark 560, .space 1680, .mark 560,
    .space 20654, .mark 560, .space 1680, .mark 560, .space 560, .mark 560, .release] ∧
    totalDuration (acFrame 1 1 0 1) = 40862 := by decide
theorem test_ac_frame_fixed : totalDuration (acFrame 0 0 0 0) = 37502 := by decide
theorem test_ac_frame_max : totalDuration (acFrame (2 ^ 35 - 1) 35 (2 ^ 31 - 1) 31) = 185342 := by decide +kernel
theorem test_nec_frame_small : necFrame 1 1 0 1 = [.mark 8992, .space 4496, .mark 560, .space 1680, .mark 560,
    .space 560, .mark 560, .space 41425, .mark 8992, .space 2250, .mark 560, .space 96293, .mark 8992, .space 2250,
    .mark 562, .release] ∧ totalDuration (necFrame 1 1 0 1) = 178732 := by decide
theorem test_nec_frame_fixed : totalDuration (necFrame 0 0 0 0) = 175372 := by decide

/-- F-1, with the framing of 43_nec_framer.md R110. -/
theorem test_tv_plus_segments : segs .tvPlus 22#5 = [.mark 8992, .space 4496] ++
    symbolsOf [0, 0, 0, 0, 0, 0, 0, 0, 1, 1, 1, 1, 1, 1, 1, 0, 0, 0, 0, 1, 1, 0, 1, 0, 1, 1, 1, 0, 0, 1, 0, 1] ++
    [.mark 560, .space 41425, .mark 8992, .space 2250, .mark 560, .space 96293, .mark 8992, .space 2250, .mark 562,
      .release] := by decide
/-- F-3. -/
theorem test_ac_power_on_segments : segs .acPowerOn 27#5 = [.mark 8992, .space 4496] ++
    symbolsOf [1, 0, 0, 1, 1, 0, 1, 0, 0, 1, 1, 0, 0, 0, 0, 0, 0, 0, 0, 0, 0, 1, 0, 0, 0, 0, 0, 0, 1, 0, 1, 0, 0, 1, 0] ++
    [.mark 560, .space 20654, .mark 560, .space 1680] ++
    symbolsOf [0, 0, 0, 1, 0, 0, 0, 0, 0, 0, 0, 0, 1, 0, 0, 0, 0, 0, 0, 0, 0, 0, 0, 0, 0, 0, 0, 0, 0, 1, 1] ++
    [.mark 560, .release] := by decide
/-- F-4: the frame of the 23 degree entry. -/
theorem test_ac_plus_segments : segs .acPlus 22#5 = [.mark 8992, .space 4496] ++
    symbolsOf [1, 0, 0, 1, 1, 1, 1, 0, 1, 1, 1, 0, 0, 0, 0, 0, 0, 0, 0, 0, 0, 1, 0, 0, 0, 0, 0, 0, 1, 0, 1, 0, 0, 1, 0] ++
    [.mark 560, .space 20654, .mark 560, .space 1680] ++
    symbolsOf [0, 0, 0, 1, 0, 0, 0, 0, 0, 0, 0, 0, 1, 0, 0, 0, 0, 0, 0, 0, 0, 0, 0, 0, 0, 0, 0, 1, 0, 1, 1] ++
    [.mark 560, .release] := by decide

/-! ### The eight requests, each as the first instruction after reset (L-1 to L-12) -/

/-- The state after one step, where there is one. -/
def after (r : Result) : Option State :=
  match r with
  | .next s => some s
  | .fault _ => none
  | .refused _ => none

/-- The registers that a request loads, after the first step from reset with `temp` = `t`. -/
def firstStep (t : Temp) (w : Nat) : Option (Payloads × Temp × Bool) :=
  (after (step (({ State.reset with temp := t } : State).withFetchWord 8 w))).map fun s =>
    (⟨s.proto, s.p0Val, s.p0Cnt, s.p1Val, s.p1Cnt⟩, s.temp, s.busy)

theorem test_step_tvPowerOn : firstStep 22#5 0 = some (⟨.nec, 0x7F00#35, 16#6, 0xF50A#35, 16#6⟩, 22#5, true) := by decide
theorem test_step_tvPowerOff : firstStep 17#5 1 = some (⟨.nec, 0x7F00#35, 16#6, 0xF50A#35, 16#6⟩, 17#5, true) := by decide
theorem test_step_tvPlus : firstStep 30#5 2 = some (⟨.nec, 0x7F00#35, 16#6, 0xA758#35, 16#6⟩, 30#5, true) := by decide
theorem test_step_tvMinus : firstStep 16#5 3 = some (⟨.nec, 0x7F00#35, 16#6, 0xA45B#35, 16#6⟩, 16#5, true) := by decide
theorem test_step_acPowerOn :
    firstStep 27#5 4 = some (⟨.ac, 0x250200659#35, 35#6, 0x60001008#35, 31#6⟩, 27#5, true) := by decide
theorem test_step_acPowerOff :
    firstStep 22#5 5 = some (⟨.ac, 0x250200651#35, 35#6, 0x20001008#35, 31#6⟩, 22#5, true) := by decide
theorem test_step_acPlus :
    firstStep 22#5 6 = some (⟨.ac, 0x250200779#35, 35#6, 0x68001008#35, 31#6⟩, 23#5, true) := by decide
theorem test_step_acMinus :
    firstStep 24#5 7 = some (⟨.ac, 0x250200779#35, 35#6, 0x68001008#35, 31#6⟩, 23#5, true) := by decide
/-- L-7: saturated at 30; the dataA word of 30 degrees, whatever the free dataB word is. -/
theorem test_step_acPlus_saturated :
    (firstStep 30#5 6).map (fun r => (r.1.v0, r.2.1)) = some (0x250200E79#35, 30#5) := by decide
/-- L-8: saturated at 16. -/
theorem test_step_acMinus_saturated :
    (firstStep 16#5 7).map (fun r => (r.1.v0, r.2.1)) = some (0x250200079#35, 16#5) := by decide
theorem test_acPlus_refuses : exec .acPlus { State.reset with temp := 14#5 } = .refused .tempOutOfRange := rfl

/-! ### Handshake and reset (H-1 to H-5) -/

theorem test_reset_outputs : State.reset.outputs = ⟨true, false, false, 22#5⟩ := by decide
/-- H-1: a request presented while busy is not accepted and stays presented. -/
theorem test_busy_ignores : (after (step { atElement .nec 0#4 with inputs := [.request 6#3] })).map
    (fun s => (s.temp, s.busy, s.trace, s.inputs)) = some (22#5, true, [.mark 8992], [.request 6#3]) := by decide
/-- H-2: reset wins over a request at the same edge. -/
theorem test_reset_wins : (after (step { State.reset with temp := 25#5, inputs := [.level true true 6#3] })).map
    (fun s => (s.temp, s.busy, s.trace)) = some (22#5, false, []) := by decide
/-- H-3: reset cuts the frame short and the update is lost. -/
theorem test_reset_aborts : (after (step { atElement .ac 1#4 with
    temp := 23#5, irGate := true, trace := [.mark 8992], inputs := [.level true false 0#3] })).map
    (fun s => (s.outputs, s.trace)) = some (⟨true, false, false, 22#5⟩, [.mark 8992]) := by decide
/-- 70_reset_and_hazards.md R170: reset takes effect at once when asserted. -/
theorem test_reset_at_once : (after (step { atElement .ac 0#4 with
    temp := 23#5, inputs := [.level false false 0#3, .level true false 0#3] })).map
    (fun s => (s.rst, s.outputs)) = some (true, ⟨true, false, false, 22#5⟩) := by decide
/-- H-4: the new temperature is visible from the accepting edge. -/
theorem test_temp_visible_at_once : (after (step { State.reset with inputs := [.level false true 6#3] })).map
    (fun s => (s.tempO, s.irGate, s.trace)) = some (23#5, false, []) := by decide
theorem test_idle_waits : step State.reset = .next State.reset := rfl

/-! ### The time-level form (P-4) -/

/-- At 1 MHz a cycle is a µs; at 8 MHz a µs is 8 cycles; a cycle begun counts whole. -/
theorem test_cycles_of : cyclesOf 1000000 96293 = 96293 ∧ cyclesOf 8000000 560 = 4480 ∧ cyclesOf 32768 560 = 19 := by
  decide
/-- With a latency of 3 cycles the line stays inactive after acceptance. -/
theorem test_timed_latency : (after (timedEdgeWith 1000000 3 { State.reset with inputs := [.request 2#3] })).map
    (fun s => (s.irGate, s.busy, s.latencyLeft, s.edgeCycles)) = some (false, true, 3, 1) := by decide
/-- With none the first mark starts at the instant of acceptance, for 8992 µs. -/
theorem test_timed_no_latency : (after (duringCycle 8000000 0 0 { State.reset with inputs := [.request 2#3] })).map
    (fun s => (s.irGate, s.remain, s.trace)) = some (true, 71936, [.mark 8992]) := by decide
/-- 60_exceptions.md R154: the edge that accepts runs no SeqStep. -/
theorem test_timed_accept_alone : (after (timedEdgeWith 8000000 0 { State.reset with inputs := [.request 2#3] })).map
    (fun s => (s.irGate, s.busy, s.step, s.trace)) = some (false, true, 0#4, []) := by decide
theorem test_timed_counts_down :
    (after (timedEdgeWith 1000000 0 { atElement .ac 1#4 with irGate := true, remain := 2 })).map
      (fun s => (s.irGate, s.remain, s.step)) = some (true, 1, 1#4) := by decide
/-- The next segment starts in the cycle in which the count expires. -/
theorem test_timed_next_segment :
    (after (duringCycle 1000000 0 1 { atElement .ac 1#4 with irGate := true, remain := 1 })).map
      (fun s => (s.irGate, s.remain, s.step)) = some (false, 4496, 2#4) := by decide
/-- The end of an `ENC` element takes no time. -/
theorem test_timed_enc_end : (after (duringCycle 1000000 0 1 { inSlot0 0#35 35#6 35#6 false with remain := 1 })).map
    (fun s => (s.irGate, s.remain, s.step, s.bitIdx)) = some (true, 560, 4#4, 0#6) := by decide
/-- `busy` falls when the last mark ends; H-1: the request that is held is not accepted at that edge. -/
theorem test_timed_end : (after (timedEdgeWith 1000000 3 { atElement .ac 9#4 with
    irGate := true, inputs := [.request 6#3] })).map
      (fun s => (s.irGate, s.busy, s.reqReady, s.temp, s.edgeCycles)) = some (false, false, true, 22#5, 0) := by decide
/-- 70_reset_and_hazards.md R180: a request held as `busy` falls has the whole latency before its first mark, and no more. -/
theorem test_timed_back_to_back : (after (duringCycle 1000000 3 1 { atElement .ac 9#4 with
    irGate := true, remain := 1, inputs := [.request 2#3] })).map
      (fun s => (s.irGate, s.busy, s.proto, s.latencyLeft, s.inputs)) = some (false, true, .nec, 3, []) := by decide

/-! ### Witnesses: a state and operands that meet the hypotheses of each statement, at boundary values -/

/-- An idle core with a temperature and a script. -/
def idleAt (t : Temp) (l : List Stimulus) : State := { State.reset with temp := t, inputs := l }

theorem witness_wellFormed_elements : (Element.mark 1).wellFormed = true ∧ (Element.space 131071).wellFormed = true := by
  decide
theorem witness_assembled_line : assembleLine "  AC.MINUS ; 111".toList = .request .acMinus := by decide
theorem witness_serializer_mark : ((inSlot0 0#35 35#6 34#6 false).slotCnt .p0).toNat ≤ 35 ∧
    (inSlot0 0#35 35#6 34#6 false).bitIdx.toNat < ((inSlot0 0#35 35#6 34#6 false).slotCnt .p0).toNat ∧
    (inSlot0 0#35 35#6 34#6 false).half = false := by decide
theorem witness_serializer_space : ((inSlot0 0#35 1#6 0#6 true).slotCnt .p0).toNat ≤ 35 ∧
    (inSlot0 0#35 1#6 0#6 true).bitIdx.toNat < ((inSlot0 0#35 1#6 0#6 true).slotCnt .p0).toNat ∧
    (inSlot0 0#35 1#6 0#6 true).half = true := by decide
theorem witness_serializer_done : ((inSlot0 0#35 0#6 0#6 false).slotCnt .p0).toNat ≤ 35 ∧
    ((inSlot0 0#35 0#6 0#6 false).slotCnt .p0).toNat ≤ (inSlot0 0#35 0#6 0#6 false).bitIdx.toNat := by decide
theorem witness_enc_element : ((inSlot0 7#35 35#6 0#6 false).slotCnt .p0).toNat ≤ 35 ∧
    (inSlot0 7#35 35#6 0#6 false).bitIdx = 0#6 ∧ (inSlot0 7#35 35#6 0#6 false).half = false := by decide
theorem witness_count_above : 35 < ((inSlot0 0#35 36#6 0#6 false).slotCnt .p0).toNat := by decide
theorem witness_sequencer_elements :
    progRom (atElement .nec 12#4).proto (atElement .nec 12#4).step = some (.mark 562) ∧
    progRom (atElement .ac 1#4).proto (atElement .ac 1#4).step = some (.space 4496) ∧
    progRom (atElement .nec 3#4).proto (atElement .nec 3#4).step = some (.enc .p1) ∧
    progRom (atElement .ac 9#4).proto (atElement .ac 9#4).step = some .finish ∧
    progRom (atElement .ac 10#4).proto (atElement .ac 10#4).step = none := by decide
theorem witness_sequencer_conserves : (inSlot0 5#35 35#6 35#6 false).busy = true ∧
    (inSlot0 5#35 35#6 35#6 false).PositionOk ∧ ∀ k, ((inSlot0 5#35 35#6 35#6 false).slotCnt k).toNat ≤ 35 :=
  ⟨rfl, ⟨by decide, by decide⟩, fun k => by cases k <;> decide⟩
theorem witness_frame_program : (atElement .ac 0#4).busy = true ∧ (atElement .ac 0#4).step = 0#4 ∧
    (atElement .ac 0#4).bitIdx = 0#6 ∧ (atElement .ac 0#4).half = false ∧ (atElement .ac 0#4).trace = [] ∧
    (atElement .ac 0#4).p0Cnt.toNat ≤ 35 ∧ (atElement .ac 0#4).p1Cnt.toNat ≤ 35 := by decide
theorem witness_sequencer_next : seqStep (atElement .ac 4#4) =
    .next { atElement .ac 4#4 with step := 5#4, trace := [.space 20654] } := rfl
theorem witness_temp_map_plus : tempMap (satInc 22#5) = some ⟨0x250200779#35, 0x68001008#31⟩ := by decide
theorem witness_temp_map_minus : tempMap (satDec 24#5) = some ⟨0x250200779#35, 0x68001008#31⟩ := by decide
theorem witness_codes : (5#3 : Code) ≠ 6#3 ∧ (5#3 : Code) ≠ 7#3 := by decide
theorem witness_two_temperatures : 16 ≤ (16#5 : Temp).toNat ∧ (16#5 : Temp).toNat ≤ 30 ∧ 16 ≤ (30#5 : Temp).toNat ∧
    (30#5 : Temp).toNat ≤ 30 ∧ (16#5 : Temp) ≠ 30#5 := by decide
theorem witness_pattern_temperatures : ((25#5 : Temp).toNat ≤ 25 ∨ (25#5 : Temp).toNat = 30) ∧
    ((30#5 : Temp).toNat ≤ 25 ∨ (30#5 : Temp).toNat = 30) ∧ (tempMap 30#5).isSome = true := by decide
theorem witness_refusal : Instr.acPlus = .acPlus ∧ (idleAt 14#5 []).temp.toNat < 15 := by decide
theorem witness_exec_next : ∀ i : Instr, (after (exec i (idleAt 16#5 []))).isSome = true := by
  intro i; cases i <;> decide
theorem witness_lookup : ∀ i : Instr, (lookup i.device i.command (idleAt 30#5 []).temp).isSome = true := by
  intro i; cases i <;> decide
theorem witness_range_ends : 16 ≤ (idleAt 16#5 []).temp.toNat ∧ (idleAt 30#5 []).temp.toNat ≤ 30 := by decide
theorem witness_tv : ∀ i ∈ [Instr.tvPowerOn, .tvPowerOff, .tvPlus, .tvMinus], i.device = .tv := by decide
theorem witness_sends_23 : tempAfter 22#5 .acPlus = 23#5 ∧ tempAfter 24#5 .acMinus = 23#5 ∧
    tempMap (tempAfter 22#5 .acPlus) = some ⟨0x250200779#35, 0x68001008#31⟩ := by decide
theorem witness_accept_edge : (idleAt 22#5 [.request 6#3]).rst = false ∧ (idleAt 22#5 [.request 6#3]).busy = false ∧
    (idleAt 22#5 [.request 6#3]).reqValid = true := by decide
theorem witness_reset_edge : (idleAt 22#5 [.level true true 6#3]).rst = true := by decide
theorem witness_sequence_edge : (atElement .nec 0#4).rst = false ∧ (atElement .nec 0#4).busy = true := by decide
theorem witness_idle_edge : (idleAt 22#5 []).rst = false ∧ (idleAt 22#5 []).busy = false ∧
    (idleAt 22#5 []).reqValid = false := by decide
theorem witness_reset_step : (after (step (idleAt 25#5 [.level true true 6#3]))).isSome = true ∧
    (after (step (idleAt 25#5 [.request 6#3, .level true false 0#3]))).map State.rst = some true := by decide
theorem witness_busy_scripts : (atElement .nec 0#4).busy = true ∧ NoReset [.request 6#3] ∧
    NoReset [.level false true 7#3] ∧ [Stimulus.request 6#3].head? = some (.request 6#3) :=
  ⟨rfl, scriptOf_noReset [.acPlus], by intro x hx; simp at hx; subst hx; rfl, rfl⟩
theorem witness_held_request : ({ atElement .ac 9#4 with inputs := [.request 1#3] } : State).busy = true ∧
    progRom .ac 9#4 = some .finish := by decide
theorem witness_busy_falls : (after (step (atElement .ac 9#4))).map State.busy = some false ∧
    (after (step (idleAt 22#5 [.request 1#3]))).map State.busy = some true := by decide
theorem witness_temperature_written : edgeEvent (idleAt 22#5 [.request 6#3]) = .accept .acPlus ∧
    (after (step (idleAt 22#5 [.request 6#3]))).map State.temp = some 23#5 := by decide

/-- An idle core with a legal temperature and no reset on its ports is legal. -/
theorem witness_legal_idle : (idleAt 30#5 (scriptOf [.acPlus, .tvMinus])).Legal :=
  ⟨by decide, fun _ => rfl, fun h => by simp [idleAt, State.reset] at h, fun h => by simp [idleAt, scriptOf, State.rst] at h⟩
theorem witness_accept_run : NoReset (idleAt 30#5 (scriptOf [.acPlus, .tvMinus])).inputs ∧
    edgeEvent (idleAt 30#5 (scriptOf [.acPlus, .tvMinus])) = .accept .acPlus ∧
    (idleAt 30#5 (scriptOf [.acPlus, .tvMinus])).busy = false ∧
    (idleAt 30#5 (scriptOf [.acPlus, .tvMinus])).inputs = scriptOf [.acPlus, .tvMinus] :=
  ⟨scriptOf_noReset _, by decide, rfl, rfl⟩

/-- A core that has just accepted `TV.PLUS`. -/
def sending : State := State.reset.accept romTvPlus 22#5

theorem witness_legal_busy : sending.Legal :=
  ⟨by decide, fun h => by simp [sending] at h, fun _ => exec_frameOk (i := .tvPlus) (s := State.reset) rfl rfl,
    fun h => by simp [sending, State.rst, State.reset] at h⟩
theorem witness_sends_a_request : sending.SendsARequest := fun _ =>
  ⟨.tvPlus, 22#5, by decide, by decide, by
    obtain ⟨-, ht, hp, -⟩ := exec_pending (i := .tvPlus) (s := State.reset) (u := sending) rfl
    rw [ht, hp]; rfl⟩
theorem witness_sequence_edge_timed : edgeEvent sending = .sequence ∧ 0 < 1000000 ∧
    (sending.latencyLeft = 0 ∧ sending.remain = 0) ∧
    (after (timedEdgeWith 1000000 0 sending)).map (fun t => (t.rst, t.busy, t.trace)) =
      some (false, true, [.mark 8992]) := by decide
theorem witness_counting : edgeEvent ({ sending with latencyLeft := 1, remain := 5 } : State) = .sequence ∧
    0 < ({ sending with latencyLeft := 1, remain := 5 } : State).latencyLeft ∧
    edgeEvent ({ sending with remain := 1 } : State) = .sequence ∧ 0 < ({ sending with remain := 1 } : State).remain := by
  decide
theorem witness_back_to_back : NoReset (idleAt 30#5 (scriptOf [.acPlus, .acMinus])).inputs ∧
    edgeEvent (idleAt 30#5 (scriptOf [.acPlus, .acMinus])) = .accept .acPlus ∧
    (idleAt 30#5 (scriptOf [.acPlus, .acMinus])).inputs.tail = .request (encode .acMinus) :: [] :=
  ⟨scriptOf_noReset _, by decide, rfl⟩
theorem witness_back_to_back_legal : (idleAt 30#5 (scriptOf [.acPlus, .acMinus])).Legal :=
  ⟨by decide, fun _ => rfl, fun h => by simp [idleAt, State.reset] at h, fun h => by simp [idleAt, scriptOf, State.rst] at h⟩
theorem witness_remain_fits : ({ sending with remain := 96293 } : State).RemainFits 1000000 ∧ (1000000 : Nat) ≤ 1000000 :=
  ⟨by unfold State.RemainFits; decide, by decide⟩
theorem witness_step_from_busy : (after (step sending)).map (fun t => (t.busy, t.trace)) = some (true, [.mark 8992]) := by
  decide

end Sys2Proof.Tests
end

/-! The receiver of the test oracle: what it reads from ENCODE, where the two payloads stand in a frame, and from these
what it reads from a frame. -/

namespace Sys2Proof

/-! ### The receiver reads ENCODE back -/

/-- ENCODE by its first bit, the order in which a receiver meets the symbols; `encodeBits_succ` is by its last. -/
theorem encodeBits_succ_eq_symbol_append (v n : Nat) :
    encodeBits v (n + 1) = symbol (bit v 0) ++ encodeBits (v / 2) n := by
  simp [encodeBits, List.range_succ_eq_map, List.flatMap_map, bit, Nat.testBit_succ]

theorem spaceBit_symbolSpace (b : Bool) : spaceBit (.space (symbolSpace b)) = some b := by cases b <;> rfl

theorem decodeSymbols_symbol_append {b : Bool} {l : List Segment} {v : Nat} (h : decodeSymbols l = some v) :
    decodeSymbols (symbol b ++ l) = some (2 * v + b.toNat) := by
  simp [symbol, decodeSymbols, spaceBit_symbolSpace, h]

/-- The low `n + 1` bits of `v` are its bit 0 below the low `n` bits of `v / 2`. -/
theorem mod_two_pow_succ_eq_bit_zero (v n : Nat) : v % 2 ^ (n + 1) = 2 * (v / 2 % 2 ^ n) + (bit v 0).toNat := by
  have hbit : (bit v 0).toNat = v % 2 := by rw [bit, Nat.toNat_testBit, Nat.pow_zero, Nat.div_one]
  rw [hbit, Nat.pow_succ', Nat.mod_mul, Nat.add_comm]

/-- R96 of 41_bitstream_serializer.md. -/
theorem decodeSymbols_encodeBits (v n : Nat) : decodeSymbols (encodeBits v n) = some (v % 2 ^ n) := by
  induction n generalizing v with
  | zero => simp [decodeSymbols, Nat.mod_one]
  | succ n ih =>
    rw [encodeBits_succ_eq_symbol_append, decodeSymbols_symbol_append (ih (v / 2)), mod_two_pow_succ_eq_bit_zero]

/-! ### Where the payloads stand in a frame -/

/-- The segments from position `k` on that a receiver takes for `n` symbols are ENCODE of the payload that stands there. -/
theorem take_drop_append_encodeBits {k : Nat} (p l : List Segment) (v n : Nat) (hk : p.length = k) :
    ((p ++ encodeBits v n ++ l).drop k).take (2 * n) = encodeBits v n := by
  rw [List.append_assoc, List.drop_left' hk, List.take_left' (encodeBits_length v n)]

theorem acFrame_first_payload (a na b nb : Nat) :
    ((acFrame a na b nb).drop 2).take (2 * na) = encodeBits a na := by
  simp [acFrame]

/-- Before the second payload stand the start burst, the first payload, and the block opener (42_ac_framer.md R104). -/
theorem acFrame_second_payload (a na b nb : Nat) :
    ((acFrame a na b nb).drop (2 * na + 6)).take (2 * nb) = encodeBits b nb :=
  take_drop_append_encodeBits _ _ b nb (by simp)

theorem necFrame_first_payload (a na c nc : Nat) :
    ((necFrame a na c nc).drop 2).take (2 * na) = encodeBits a na := by
  simp [necFrame]

/-- The second payload follows the first with no separator (43_nec_framer.md R111). -/
theorem necFrame_second_payload (a na c nc : Nat) :
    ((necFrame a na c nc).drop (2 * na + 2)).take (2 * nc) = encodeBits c nc :=
  take_drop_append_encodeBits _ _ c nc (by simp)

/-! ### What the receiver reads from a frame sent with the core's counts -/

/-- R104 of 42_ac_framer.md. -/
theorem receiveAc_acFrame (a b : Nat) : receiveAc (acFrame a 35 b 31) = some (a % 2 ^ 35, b % 2 ^ 31) := by
  have h0 : ((acFrame a 35 b 31).drop 2).take 70 = encodeBits a 35 := acFrame_first_payload a 35 b 31
  have h1 : ((acFrame a 35 b 31).drop 76).take 62 = encodeBits b 31 := acFrame_second_payload a 35 b 31
  simp only [receiveAc, h0, h1, decodeSymbols_encodeBits]

/-- R111 of 43_nec_framer.md. -/
theorem receiveNec_necFrame (a c : Nat) : receiveNec (necFrame a 16 c 16) = some (a % 2 ^ 16, c % 2 ^ 16) := by
  have h0 : ((necFrame a 16 c 16).drop 2).take 32 = encodeBits a 16 := necFrame_first_payload a 16 c 16
  have h1 : ((necFrame a 16 c 16).drop 34).take 32 = encodeBits c 16 := necFrame_second_payload a 16 c 16
  simp only [receiveNec, h0, h1, decodeSymbols_encodeBits]

/-- Settles O10: each payload stands in its frame where the receiver looks for it, and decoding inverts ENCODE. -/
theorem receiverReadsThePayload : Obligations.ReceiverReadsThePayload :=
  ⟨receiveAc_acFrame, receiveNec_necFrame⟩

end Sys2Proof

/-! The state over one edge: outcomes of a request, the sequencer step's conservation of the output, and what follows for
a step and for an edge of the time-level form (10_state.md R20 to R34). -/

namespace Sys2Proof.Machine

/-! ### Outcomes and ports -/

theorem mapNext_mapNext (f g : State → State) (r : Result) : mapNext f (mapNext g r) = mapNext (fun s => f (g s)) r := by
  cases r <;> rfl

/-- Two functions that agree on the state answered do the same to an outcome. -/
theorem mapNext_congr {f g : State → State} {r : Result} (h : ∀ t, r = .next t → f t = g t) :
    mapNext f r = mapNext g r := by
  cases r with
  | next t => simp [h t rfl]
  | fault e => rfl
  | refused e => rfl

/-- Driving the ports leaves the temperature, unless it resets the core. -/
theorem State.drive_temp_cases (l : List Stimulus) (s : State) :
    (s.drive l).rst = true ∨ (s.drive l).temp = s.temp := by
  obtain ⟨-, hd⟩ | ⟨hr, -⟩ := State.drive_cases l s
  · exact .inr (by rw [hd])
  · exact .inl hr

/-- Without a reset, driving the ports changes the ports only. -/
theorem State.drive_of_rst_false {l : List Stimulus} {s : State} (h : (s.drive l).rst = false) :
    s.drive l = { s with inputs := l } := by
  obtain ⟨-, hd⟩ | ⟨hr, -⟩ := State.drive_cases l s
  · exact hd
  · simp [hr] at h

/-! ### What a request writes -/

/-- The temperature that a request leaves (44_command_lookup.md R126, R127). -/
theorem exec_temp_cases {i : Instr} {s t : State} (h : exec i s = .next t) :
    t.temp = s.temp ∨ (i = .acPlus ∧ t.temp = satInc s.temp) ∨ (i = .acMinus ∧ t.temp = satDec s.temp) := by
  cases i
  case acPlus =>
    obtain ⟨e, -, rfl⟩ := acceptTemp_eq_next h
    exact .inr (.inl ⟨rfl, rfl⟩)
  case acMinus =>
    obtain ⟨e, -, rfl⟩ := acceptTemp_eq_next h
    exact .inr (.inr ⟨rfl, rfl⟩)
  all_goals
    cases h
    exact .inl rfl

/-- From a legal temperature a request leaves a legal one (10_state.md R24). -/
theorem exec_temp_range {i : Instr} {s t : State} (h : exec i s = .next t)
    (hs : 16 ≤ s.temp.toNat ∧ s.temp.toNat ≤ 30) : 16 ≤ t.temp.toNat ∧ t.temp.toNat ≤ 30 := by
  obtain ht | ⟨-, ht⟩ | ⟨-, ht⟩ := exec_temp_cases h
  · rwa [ht]
  · rw [ht, satInc_toNat]; omega
  · rw [ht, satDec_toNat]; omega

/-- Settles O39: a request's next state is an acceptance, whose frame `State.accept` shows. -/
theorem requestsFrame : Obligations.RequestsFrame := by
  intro i s t h
  have htemp : i ≠ .acPlus → i ≠ .acMinus → t.temp = s.temp := fun hp hm => by
    obtain ht | ⟨hi, -⟩ | ⟨hi, -⟩ := exec_temp_cases h
    · exact ht
    · exact absurd hi hp
    · exact absurd hi hm
  obtain ⟨p, u, -, rfl⟩ := exec_eq_next h
  exact ⟨rfl, rfl, rfl, rfl, htemp, rfl⟩

/-! ### The state after reset -/

/-- Settles O42: the fields of `State.reset`, read off. -/
theorem resetState : Obligations.ResetState :=
  ⟨rfl, rfl, rfl, rfl, rfl, rfl, rfl, rfl, rfl, rfl, rfl, rfl, rfl⟩

theorem State.reset_legal : State.reset.Legal := State.resetRegisters_legal State.reset

/-- Settles O50: the reset state holds its reset values, and no frame is in progress in it. -/
theorem resetIsLegal : Obligations.ResetIsLegal :=
  ⟨State.reset_legal, fun hb => absurd hb Bool.false_ne_true, fun hb => absurd hb Bool.false_ne_true⟩

/-! ### Positions in a frame (10_state.md R26, R27) -/

theorem State.PositionOk.exists_element {s : State} (h : s.PositionOk) : ∃ e, progRom s.proto s.step = some e := by
  unfold State.PositionOk at h
  cases he : progRom s.proto s.step with
  | none => simp [he] at h
  | some e => exact ⟨e, rfl⟩

/-- At an element that is no `ENC` the serializer is at its start. -/
theorem State.PositionOk.serializer_idle {s : State} {e : Element} (h : s.PositionOk)
    (he : progRom s.proto s.step = some e) (hne : ∀ k, e ≠ .enc k) : s.bitIdx = 0#6 ∧ s.half = false := by
  unfold State.PositionOk at h
  rw [he] at h
  cases e with
  | enc k => exact absurd rfl (hne k)
  | mark d => exact h
  | space d => exact h
  | finish => exact h

theorem State.positionOk_enc {s : State} {k : Slot} (he : progRom s.proto s.step = some (.enc k)) :
    s.PositionOk ↔ s.bitIdx.toNat ≤ (s.slotCnt k).toNat ∧ (s.half = true → s.bitIdx.toNat < (s.slotCnt k).toNat) := by
  simp [State.PositionOk, he]

/-! ### The segments still to be emitted, element by element (10_state.md R33) -/

/-- The segments of the elements after the current one. -/
def State.laterSegs (s : State) : List Segment :=
  ((program s.proto).drop (s.step.toNat + 1)).flatMap s.elementSegs

theorem State.laterSegs_congr {s t : State} (hp : t.proto = s.proto) (hs : t.step = s.step)
    (hv : ∀ k, t.slotVal k = s.slotVal k) (hc : ∀ k, t.slotCnt k = s.slotCnt k) : t.laterSegs = s.laterSegs := by
  simp only [State.laterSegs, hp, hs, State.elementSegs_congr hv hc]

/-- Within an element: what is left of it, and then the elements after it. -/
theorem State.pending_eq_rest {s : State} {e : Element} (hb : s.busy = true) (he : progRom s.proto s.step = some e)
    (hd : s.elementDone ≤ (s.elementSegs e).length) :
    s.pending = (s.elementSegs e).drop s.elementDone ++ s.laterSegs := by
  rw [State.pending_at hb he, List.drop_append_of_le_length hd, State.laterSegs]

/-- At an element that is no `ENC`, all of its segments are still to be emitted. -/
theorem State.pending_of_not_enc {s : State} {e : Element} (hb : s.busy = true) (hpos : s.PositionOk)
    (he : progRom s.proto s.step = some e) (hne : ∀ k, e ≠ .enc k) : s.pending = s.elementSegs e ++ s.laterSegs := by
  obtain ⟨hi, hh⟩ := hpos.serializer_idle he hne
  have hd : s.elementDone = 0 := by simp [State.elementDone, hi, hh]
  rw [State.pending_eq_rest hb he (by omega), hd, List.drop_zero]

/-- Within an `ENC` element, two segments of ENCODE have been emitted per bit, and one more where `half` is set. -/
theorem State.pending_of_enc {s : State} {k : Slot} (hb : s.busy = true) (hpos : s.PositionOk)
    (he : progRom s.proto s.step = some (.enc k)) :
    s.pending = (encodeBits (s.slotVal k).toNat (s.slotCnt k).toNat).drop (2 * s.bitIdx.toNat + s.half.toNat) ++
      s.laterSegs := by
  obtain ⟨hle, hlt⟩ := (State.positionOk_enc he).1 hpos
  refine State.pending_eq_rest hb he ?_
  simp only [State.elementDone, State.elementSegs, encodeBits_length]
  cases hh : s.half with
  | false => simpa using hle
  | true => have := hlt hh; simp only [Bool.toNat_true]; omega

/-- After the mark of bit `i`, its space is due. -/
theorem encodeBits_drop_half {v n i : Nat} (h : i < n) :
    (encodeBits v n).drop (2 * i + 1) = .space (symbolSpace (bit v i)) :: (encodeBits v n).drop (2 * i + 2) := by
  rw [← List.drop_drop, encodeBits_drop h, List.drop_one, List.tail_cons]

/-! ### A sequencer step conserves the output -/

/-- From `s` to `t` nothing of the output is lost or added, and a frame still in progress is well placed. -/
def Conserves (s t : State) : Prop :=
  t.trace ++ t.pending = s.trace ++ s.pending ∧ (t.busy = true → t.PositionOk)

/-- Emitting the one segment of an element and going on to the next element. -/
theorem conserves_nextElement {s u : State} {e : Element} {g : Segment} (hb : s.busy = true) (hpos : s.PositionOk)
    (he : progRom s.proto s.step = some e) (hne : ∀ k, e ≠ .enc k) (hf : e ≠ .finish) (hg : s.elementSegs e = [g])
    (hu : u = { s with irGate := u.irGate, trace := s.trace ++ [g] }) : Conserves s u.nextElement := by
  obtain ⟨hi, hh⟩ := hpos.serializer_idle he hne
  have hslot : (∀ k, u.slotVal k = s.slotVal k) ∧ ∀ k, u.slotCnt k = s.slotCnt k := by
    rw [hu]; exact ⟨fun k => by cases k <;> rfl, fun k => by cases k <;> rfl⟩
  obtain ⟨hv, hc⟩ := hslot
  obtain ⟨hpend, hok⟩ := State.pending_next (t := u.nextElement) (by rw [hu]; exact hb) he hf (by rw [hu]; rfl)
    (by rw [hu]; rfl) (by rw [hu]; exact hi) (by rw [hu]; exact hh) (by simpa using hv) (by simpa using hc)
  refine ⟨?_, fun _ => hok⟩
  have htrace : u.trace = s.trace ++ [g] := by rw [hu]
  rw [State.nextElement_trace, htrace, hpend, State.pending_of_not_enc hb hpos he hne, hg, List.append_assoc]
  rfl

/-- The mark half of a symbol. -/
theorem conserves_sendMark {s : State} {k : Slot} (hb : s.busy = true) (hpos : s.PositionOk)
    (he : progRom s.proto s.step = some (.enc k)) (hlt : s.bitIdx.toNat < (s.slotCnt k).toNat) (hh : s.half = false) :
    Conserves s s.sendMark := by
  have hok : s.sendMark.PositionOk :=
    (State.positionOk_enc (s := s.sendMark) he).2 ⟨by simpa using hlt.le, fun _ => by simpa using hlt⟩
  have hlater : s.sendMark.laterSegs = s.laterSegs := State.laterSegs_congr rfl rfl (by simp) (by simp)
  refine ⟨?_, fun _ => hok⟩
  rw [State.pending_of_enc hb hpos he, State.pending_of_enc (s := s.sendMark) hb hok he, hlater, hh]
  simp [encodeBits_drop hlt, encodeBits_drop_half hlt]

/-- The space half of a symbol. -/
theorem conserves_sendSpace {s : State} {k : Slot} (hb : s.busy = true) (hpos : s.PositionOk)
    (he : progRom s.proto s.step = some (.enc k)) (hlt : s.bitIdx.toNat < (s.slotCnt k).toNat) (hh : s.half = true)
    (hc : (s.slotCnt k).toNat ≤ 35) : Conserves s (s.sendSpace k) := by
  have hidx : (s.bitIdx + 1#6).toNat = s.bitIdx.toNat + 1 :=
    BitVec.toNat_add_of_lt (y := 1#6) (show s.bitIdx.toNat + 1 < 2 ^ 6 by omega)
  have hok : (s.sendSpace k).PositionOk :=
    (State.positionOk_enc (s := s.sendSpace k) he).2 ⟨by simpa [hidx] using hlt, fun h => by simp at h⟩
  have hlater : (s.sendSpace k).laterSegs = s.laterSegs := State.laterSegs_congr rfl rfl (by simp) (by simp)
  refine ⟨?_, fun _ => hok⟩
  rw [State.pending_of_enc hb hpos he, State.pending_of_enc (s := s.sendSpace k) hb hok he, hlater, hh]
  simp [hidx, encodeBits_drop_half hlt, Nat.mul_add]

/-- The end of an `ENC` element, which emits nothing. -/
theorem conserves_endEnc {s : State} {k : Slot} (hb : s.busy = true) (hpos : s.PositionOk)
    (he : progRom s.proto s.step = some (.enc k)) (hge : (s.slotCnt k).toNat ≤ s.bitIdx.toNat) :
    Conserves s s.endEnc := by
  obtain ⟨hpend, hok⟩ := State.pending_next (t := s.endEnc) hb he (by simp) rfl rfl rfl rfl (by simp) (by simp)
  refine ⟨?_, fun _ => hok⟩
  have hdone : (encodeBits (s.slotVal k).toNat (s.slotCnt k).toNat).drop (2 * s.bitIdx.toNat + s.half.toNat) = [] :=
    List.drop_eq_nil_of_le (by rw [encodeBits_length]; omega)
  rw [State.endEnc_trace, hpend, State.pending_of_enc hb hpos he, hdone]
  rfl

/-- The `END` element, the last one. -/
theorem conserves_endFrame {s : State} (hb : s.busy = true) (hpos : s.PositionOk)
    (he : progRom s.proto s.step = some .finish) : Conserves s s.endFrame := by
  refine ⟨?_, fun h => by simp at h⟩
  rw [State.pending_of_not_enc hb hpos he (by simp), State.laterSegs, progRom_finish_last he]
  simp [State.pending, State.elementSegs]

theorem serStep_conserves {k : Slot} {s t : State} (h : serStep k s = .next t) (hb : s.busy = true)
    (hpos : s.PositionOk) (he : progRom s.proto s.step = some (.enc k)) : Conserves s t := by
  obtain ⟨hc, ⟨hlt, hh, rfl⟩ | ⟨hlt, hh, rfl⟩ | ⟨hge, rfl⟩⟩ := serStep_cases h
  · exact conserves_sendMark hb hpos he hlt hh
  · exact conserves_sendSpace hb hpos he hlt hh hc
  · exact conserves_endEnc hb hpos he hge

theorem seqStep_conserves {s t : State} (h : seqStep s = .next t) (hb : s.busy = true) (hpos : s.PositionOk) :
    Conserves s t := by
  obtain ⟨d, he, rfl⟩ | ⟨d, he, rfl⟩ | ⟨k, he, hk⟩ | ⟨he, rfl⟩ := seqStep_cases h
  · exact conserves_nextElement hb hpos he (by simp) (by simp) rfl rfl
  · exact conserves_nextElement hb hpos he (by simp) (by simp) rfl rfl
  · exact serStep_conserves hk hb hpos he
  · exact conserves_endFrame hb hpos he

/-- The serializer refuses only a count above 35 (41_bitstream_serializer.md R94). -/
theorem serStep_answers {k : Slot} {s : State} (hc : (s.slotCnt k).toNat ≤ 35) : ∃ t, serStep k s = .next t := by
  rw [serStep, if_neg (by omega)]
  split
  · split
    · exact ⟨_, rfl⟩
    · exact ⟨_, rfl⟩
  · exact ⟨_, rfl⟩

/-- At a legal position, with counts up to 35, the sequencer does not refuse. -/
theorem seqStep_answers {s : State} (hpos : s.PositionOk) (hc : ∀ k, (s.slotCnt k).toNat ≤ 35) :
    ∃ t, seqStep s = .next t := by
  obtain ⟨e, he⟩ := hpos.exists_element
  simp only [seqStep, he]
  cases e with
  | enc k => exact serStep_answers (hc k)
  | mark d => exact ⟨_, rfl⟩
  | space d => exact ⟨_, rfl⟩
  | finish => exact ⟨_, rfl⟩

/-- Settles O20: the sequencer answers, and each of its steps conserves the output. -/
theorem sequencerConservesOutput : Obligations.SequencerConservesOutput := by
  intro s hb hpos hc
  obtain ⟨t, ht⟩ := seqStep_answers hpos hc
  exact ⟨t, ht, seqStep_conserves ht hb hpos⟩

/-! ### What a sequencer step does to `busy`, the line and the ports -/

/-- Only `END` writes `busy` (40_pulse_generator.md R83). -/
theorem seqStep_busy_cases {s t : State} (h : seqStep s = .next t) :
    t.busy = s.busy ∨ (progRom s.proto s.step = some .finish ∧ t = s.endFrame) := by
  obtain ⟨d, -, rfl⟩ | ⟨d, -, rfl⟩ | ⟨k, -, hk⟩ | hf := seqStep_cases h
  · exact .inl rfl
  · exact .inl rfl
  · obtain ⟨-, ⟨-, -, rfl⟩ | ⟨-, -, rfl⟩ | ⟨-, rfl⟩⟩ := serStep_cases hk
    · exact .inl rfl
    · exact .inl rfl
    · exact .inl rfl
  · exact .inr hf

/-- A sequencer step emits one segment and puts its level on the line, or leaves both (40_pulse_generator.md R80 to R82). -/
theorem seqStep_line_cases {s t : State} (h : seqStep s = .next t) :
    (∃ g, t.trace = s.trace ++ [g] ∧ t.irGate = g.level) ∨ (t.trace = s.trace ∧ t.irGate = s.irGate) := by
  obtain ⟨d, -, rfl⟩ | ⟨d, -, rfl⟩ | ⟨k, -, hk⟩ | ⟨-, rfl⟩ := seqStep_cases h
  · exact .inl ⟨_, rfl, rfl⟩
  · exact .inl ⟨_, rfl, rfl⟩
  · obtain ⟨-, ⟨-, -, rfl⟩ | ⟨-, -, rfl⟩ | ⟨-, rfl⟩⟩ := serStep_cases hk
    · exact .inl ⟨_, rfl, rfl⟩
    · exact .inl ⟨_, rfl, rfl⟩
    · exact .inr ⟨rfl, rfl⟩
  · exact .inl ⟨_, rfl, rfl⟩

/-- The line goes on showing the last segment emitted. -/
theorem seqStep_line {s t : State} (h : seqStep s = .next t) (hs : s.irGate = lastLevel s.trace) :
    t.irGate = lastLevel t.trace := by
  obtain ⟨g, htr, hl⟩ | ⟨htr, hl⟩ := seqStep_line_cases h
  · rw [htr, hl, lastLevel_append]
  · rw [htr, hl, hs]

theorem serStep_inputs (k : Slot) (s : State) (l : List Stimulus) :
    serStep k { s with inputs := l } = mapNext (fun t => { t with inputs := l }) (serStep k s) := by
  have hc : ({ s with inputs := l } : State).slotCnt k = s.slotCnt k := by cases k <;> rfl
  have hsp : ({ s with inputs := l } : State).sendSpace k = { s.sendSpace k with inputs := l } := by cases k <;> rfl
  unfold serStep
  rw [hc, hsp]
  split
  · rfl
  · split
    · split
      · rfl
      · rfl
    · rfl

/-- The sequencer does not look at the ports. -/
theorem seqStep_inputs (s : State) (l : List Stimulus) :
    seqStep { s with inputs := l } = mapNext (fun t => { t with inputs := l }) (seqStep s) := by
  unfold seqStep
  dsimp only
  cases progRom s.proto s.step with
  | none => rfl
  | some e =>
    cases e with
    | enc k => exact serStep_inputs k s l
    | mark d => rfl
    | space d => rfl
    | finish => rfl

/-! ### Every step keeps the core legal -/

/-- A sequencer step keeps a frame in progress well placed. -/
theorem seqStep_frameOk {s t : State} (h : seqStep s = .next t) (hb : s.busy = true) (hs : s.FrameOk)
    (ht : t.busy = true) : t.FrameOk := by
  obtain ⟨-, hproto, hval, hcnt, -⟩ := seqStep_frame h
  have hv0 : t.p0Val = s.p0Val := hval .p0
  have hv1 : t.p1Val = s.p1Val := hval .p1
  have hc0 : t.p0Cnt = s.p0Cnt := hcnt .p0
  have hc1 : t.p1Cnt = s.p1Cnt := hcnt .p1
  obtain ⟨-, hpos⟩ := seqStep_conserves h hb hs.position
  exact
    { count0 := by rw [hc0, hproto]; exact hs.count0
      count1 := by rw [hc1, hproto]; exact hs.count1
      fits0 := by rw [hv0, hc0]; exact hs.fits0
      fits1 := by rw [hv1, hc1]; exact hs.fits1
      position := hpos ht
      line := seqStep_line h hs.line }

/-- Where a sequencer step ends the frame, it leaves the line dark. -/
theorem seqStep_idleDark {s t : State} (h : seqStep s = .next t) (hb : s.busy = true) (ht : t.busy = false) :
    t.irGate = false := by
  obtain hk | ⟨-, rfl⟩ := seqStep_busy_cases h
  · simp [hk, hb] at ht
  · rfl

/-- Settles O51: each of the four kinds of edge leaves registers that are legal, and then the ports are driven. -/
theorem stepKeepsLegal : Obligations.StepKeepsLegal := by
  intro s t hs h
  obtain ⟨-, rfl⟩ | ⟨i, u, he, hu, rfl⟩ | ⟨u, he, hu, rfl⟩ | ⟨-, rfl⟩ := step_cases h
  · exact State.drive_legal _ (by simp) (fun _ => rfl) (fun hb => by simp at hb)
  · obtain ⟨-, hidle, -⟩ := edgeEvent_accept.1 he
    obtain ⟨hbusy, -⟩ := exec_pending hu
    exact State.drive_legal _ (exec_temp_range hu hs.tempRange) (fun hb => by simp [hbusy] at hb)
      (fun _ => exec_frameOk hu (hs.idleDark hidle))
  · obtain ⟨-, hb⟩ := edgeEvent_sequence.1 he
    obtain ⟨htemp, -⟩ := seqStep_frame hu
    exact State.drive_legal _ (by rw [htemp]; exact hs.tempRange) (seqStep_idleDark hu hb)
      (seqStep_frameOk hu hb (hs.frame hb))
  · exact State.drive_legal _ hs.tempRange hs.idleDark hs.frame

/-! ### Requests at the port -/

theorem decodeReq_encode (i : Instr) : decodeReq (encode i) = i := by cases i <;> decide

theorem decodeTableWord_encode (i : Instr) : decodeTableWord 8 (encode i).toNat = some i := by cases i <;> decide

theorem State.withFetchWord_encode (s : State) (i : Instr) :
    s.withFetchWord 8 (encode i).toNat = s.present (encode i) := by
  simp only [State.withFetchWord, presentWord, decodeTableWord_encode]

/-- An edge that accepts runs the request, and then the stimuli after it drive the ports (10_state.md R29). -/
theorem step_of_accept {s : State} {i : Instr} (he : edgeEvent s = .accept i) :
    step s = mapNext (fun t => t.drive s.inputs.tail) (exec i s) := by
  simp only [step, he]
  refine mapNext_congr fun t ht => ?_
  obtain ⟨-, -, -, -, hin⟩ := exec_pending ht
  rw [State.afterAccept, hin]

/-- Settles O43: acceptance decides the edge, and a presented word is the request's own. -/
theorem stepRunsTheRequest : Obligations.StepRunsTheRequest := by
  refine ⟨fun s hr hb hv => step_of_accept (edgeEvent_accept.2 ⟨hr, hb, hv, rfl⟩), fun s i => ?_⟩
  rw [State.withFetchWord_encode]
  exact step_of_accept (edgeEvent_accept.2 ⟨rfl, rfl, rfl, decodeReq_encode i⟩)

/-- Without reset, an edge of a busy core runs the sequencer and moves the script on. -/
theorem step_of_busy {s : State} {l : List Stimulus} (hb : s.busy = true) (hl : NoReset l) :
    step { s with inputs := l } = mapNext (fun t => { t with inputs := heldInputs l }) (seqStep s) := by
  have he : edgeEvent { s with inputs := l } = .sequence := edgeEvent_sequence.2 ⟨NoReset.rst hl, hb⟩
  simp only [step, he, seqStep_inputs, mapNext_mapNext]
  exact mapNext_congr fun t _ => State.drive_quiet _ hl.held

/-- Settles O46: the sequencer does not look at the ports, and a held request is held on. -/
theorem busyCoreIgnoresRequests : Obligations.BusyCoreIgnoresRequests := by
  intro s l m hb hl hm
  rw [step_of_busy hb hl, step_of_busy hb hm, mapNext_mapNext, mapNext_mapNext]
  refine ⟨rfl, fun c t hhead ht => ?_⟩
  obtain ⟨rest, rfl⟩ := List.head?_eq_some_iff.1 hhead
  obtain ⟨u, -, rfl⟩ := mapNext_eq_next ht
  rfl

/-! ### What a step does to `busy` and the temperature -/

/-- A step takes `busy` from 1 to 0 only by reset or `END` (10_state.md R21, 70_reset_and_hazards.md R171). -/
theorem step_busy_falls {s t : State} (h : step s = .next t) (hs : s.busy = true) (ht : t.busy = false) :
    s.rst = true ∨ t.rst = true ∨ progRom s.proto s.step = some .finish := by
  obtain ⟨hr, -⟩ | ⟨i, u, he, -, -⟩ | ⟨u, -, hu, rfl⟩ | ⟨he, -⟩ := step_cases h
  · exact .inl hr
  · obtain ⟨-, hidle, -⟩ := edgeEvent_accept.1 he
    simp [hs] at hidle
  · obtain ⟨-, hd⟩ | ⟨hr, -⟩ := State.drive_cases (heldInputs u.inputs) u
    · rw [State.afterEdge, hd] at ht
      obtain hk | ⟨hf, -⟩ := seqStep_busy_cases hu
      · simp [hk, hs] at ht
      · exact .inr (.inr hf)
    · exact .inr (.inl hr)
  · obtain ⟨-, hidle, -⟩ := edgeEvent_idle.1 he
    simp [hs] at hidle

/-- A step takes `busy` from 0 to 1 only by acceptance (10_state.md R21). -/
theorem step_busy_rises {s t : State} (h : step s = .next t) (hs : s.busy = false) (ht : t.busy = true) :
    s.rst = false ∧ s.reqValid = true := by
  obtain ⟨-, rfl⟩ | ⟨i, u, he, -, -⟩ | ⟨u, he, -, -⟩ | ⟨-, rfl⟩ := step_cases h
  · obtain ⟨-, hb⟩ := State.drive_busy ht
    simp at hb
  · obtain ⟨hr, -, hv, -⟩ := edgeEvent_accept.1 he
    exact ⟨hr, hv⟩
  · obtain ⟨-, hb⟩ := edgeEvent_sequence.1 he
    simp [hs] at hb
  · obtain ⟨-, hb⟩ := State.drive_busy ht
    simp [hs] at hb

/-- Settles O48, by the two directions in which `busy` changes. -/
theorem busyChangesOnlySo : Obligations.BusyChangesOnlySo :=
  fun _ _ h => ⟨step_busy_falls h, step_busy_rises h⟩

/-- Settles O49: driving the ports leaves the temperature or resets the core, and before that only a request writes it. -/
theorem temperatureWriters : Obligations.TemperatureWriters := by
  intro s t h
  obtain ⟨hr, -⟩ | ⟨i, u, he, hu, rfl⟩ | ⟨u, -, hu, rfl⟩ | ⟨-, rfl⟩ := step_cases h
  · exact .inr (.inl hr)
  · obtain hr | hd := State.drive_temp_cases u.inputs.tail u
    · exact .inr (.inr (.inl hr))
    · rw [State.afterAccept, hd]
      obtain ht | ⟨rfl, ht⟩ | ⟨rfl, ht⟩ := exec_temp_cases hu
      · exact .inl ht
      · exact .inr (.inr (.inr (.inl ⟨he, by rw [ht, satInc_toNat]⟩)))
      · exact .inr (.inr (.inr (.inr ⟨he, by rw [ht, satDec_toNat]⟩)))
  · obtain hr | hd := State.drive_temp_cases (heldInputs u.inputs) u
    · exact .inr (.inr (.inl hr))
    · obtain ⟨htemp, -⟩ := seqStep_frame hu
      exact .inl (hd.trans htemp)
  · obtain hr | hd := State.drive_temp_cases (heldInputs s.inputs) s
    · exact .inr (.inr (.inl hr))
    · exact .inl hd

/-! ### The time-level form over the segment level (40_pulse_generator.md R84) -/

/-- Where nothing is being counted down, the sequencer proceeds by one `SeqStep` and loads the counter. -/
theorem proceed_of_expired {clkHz : Nat} {s : State} (hl : s.latencyLeft = 0) (hr : s.remain = 0) :
    proceed clkHz s = mapNext (s.loadRemain clkHz) (seqStep s) := by
  simp [proceed, hl, hr]

theorem proceed_of_latency {clkHz : Nat} {s : State} (hl : 0 < s.latencyLeft) :
    proceed clkHz s = .next { s with latencyLeft := s.latencyLeft - 1 } := by
  simp [proceed, hl]

theorem proceed_of_remain {clkHz : Nat} {s : State} (hl : s.latencyLeft = 0) (hr : 0 < s.remain) :
    proceed clkHz s = .next { s with remain := s.remain - 1 } := by
  simp [proceed, hl, hr]

/-- An edge at which nothing is being counted down does what the segment-level step does, but for the counters. -/
theorem timedEdge_untimed (clkHz latency : Nat) {s : State}
    (h : edgeEvent s = .sequence → s.latencyLeft = 0 ∧ s.remain = 0) :
    mapNext State.untimed (timedEdgeWith clkHz latency s) = mapNext State.untimed (step s) := by
  cases he : edgeEvent s with
  | reset => simp only [timedEdgeWith, step, he]
  | idle => simp only [timedEdgeWith, step, he]
  | accept i =>
    simp only [timedEdgeWith, step, he, mapNext_mapNext]
    refine mapNext_congr fun t _ => ?_
    simp only [State.afterAccept, State.drive_untimed, State.startLatency_untimed]
    rfl
  | sequence =>
    obtain ⟨hl, hr⟩ := h he
    simp only [timedEdgeWith, step, he, proceed_of_expired hl hr, mapNext_mapNext]
    refine mapNext_congr fun t _ => ?_
    simp only [State.afterEdge, State.drive_untimed, State.loadRemain_untimed]
    rfl

/-- What the sequencer does when it proceeds in time conserves the output: a count touches none of it. -/
theorem proceed_conserves {clkHz : Nat} {s t : State} (h : proceed clkHz s = .next t) (hb : s.busy = true)
    (hpos : s.PositionOk) : t.trace ++ t.pending = s.trace ++ s.pending := by
  obtain ⟨-, rfl⟩ | ⟨-, -, rfl⟩ | ⟨-, -, u, hu, rfl⟩ := proceed_cases h
  · rfl
  · rfl
  · obtain ⟨hout, -⟩ := seqStep_conserves hu hb hpos
    exact hout

/-- Settles O57: the counting edges and the others apart, and `proceed` conserves the output in both. -/
theorem cycleConservesOutput : Obligations.CycleConservesOutput := by
  refine ⟨fun clkHz latency s h => timedEdge_untimed clkHz latency h, fun clkHz latency s he => ⟨fun hl => ?_,
    fun hl hr => ?_⟩, fun clkHz latency s t hs he h hrst => ?_⟩
  · simp only [timedEdgeWith, he, proceed_of_latency hl]
    rfl
  · simp only [timedEdgeWith, he, proceed_of_remain hl hr]
    rfl
  · obtain ⟨-, hb⟩ := edgeEvent_sequence.1 he
    simp only [timedEdgeWith, he] at h
    obtain ⟨u, hu, rfl⟩ := mapNext_eq_next h
    have hu' : u.trace ++ u.pending = s.trace ++ s.pending := proceed_conserves hu hb (hs.frame hb).position
    rw [State.afterEdge, State.drive_of_rst_false hrst]
    exact hu'

end Sys2Proof.Machine

/-! A program of requests, from the sequencer step up (20_memory.md R45): how many steps the frame in progress still takes,
what each of them keeps, what a whole request does, and then the list of requests. -/

namespace Sys2Proof

/-- An `ENC` element, which sends a payload slot (30_encoding.md R68). -/
def Element.isEnc : Element → Bool
  | .enc _ => true
  | .mark _ => false
  | .space _ => false
  | .finish => false

/-- Both frame programs have one `ENC` element per payload slot. -/
theorem program_encs (p : Protocol) : (program p).countP Element.isEnc = 2 := by
  cases p with
  | nec => rfl
  | ac => rfl

end Sys2Proof

namespace Sys2Proof.Machine

/-! ### How many sequencer steps are left (40_pulse_generator.md R83) -/

/-- The `ENC` elements from `step` on: each takes one step that emits nothing (41_bitstream_serializer.md R91). -/
def State.encsLeft (s : State) : Nat := ((program s.proto).drop s.step.toNat).countP Element.isEnc

/-- The sequencer steps that the frame in progress still takes: one per segment and one per `ENC` element. -/
def State.stepsLeft (s : State) : Nat := if s.busy then s.pending.length + s.encsLeft else 0

theorem State.stepsLeft_of_busy {s : State} (hb : s.busy = true) : s.stepsLeft = s.pending.length + s.encsLeft :=
  if_pos hb

theorem State.stepsLeft_of_idle {s : State} (hb : s.busy = false) : s.stepsLeft = 0 := by
  simp [State.stepsLeft, hb]

/-- Going on to the next element passes an `ENC` element exactly where the current one is. -/
theorem State.encsLeft_next {s t : State} {e : Element} (he : progRom s.proto s.step = some e) (hf : e ≠ .finish)
    (hp : t.proto = s.proto) (hs : t.step = s.step + 1#4) : s.encsLeft = t.encsLeft + e.isEnc.toNat := by
  obtain ⟨hnext, -⟩ := progRom_next (p := s.proto) (ix := s.step) (by simp [he]) (by simpa [he] using hf)
  rw [State.encsLeft, State.encsLeft, hp, hs, hnext, progRom_drop he, List.countP_cons]
  cases e.isEnc with
  | false => rfl
  | true => rfl

/-- A sequencer step emits one segment, or passes an `ENC` element and emits nothing. -/
theorem seqStep_emits_or_passes_enc {s t : State} (h : seqStep s = .next t) :
    (∃ g, t.trace = s.trace ++ [g] ∧ s.encsLeft = t.encsLeft) ∨ (t.trace = s.trace ∧ s.encsLeft = t.encsLeft + 1) := by
  obtain ⟨d, he, rfl⟩ | ⟨d, he, rfl⟩ | ⟨k, he, hk⟩ | ⟨-, rfl⟩ := seqStep_cases h
  · exact .inl ⟨_, rfl, State.encsLeft_next he (by simp) rfl rfl⟩
  · exact .inl ⟨_, rfl, State.encsLeft_next he (by simp) rfl rfl⟩
  · obtain ⟨-, ⟨-, -, rfl⟩ | ⟨-, -, rfl⟩ | ⟨-, rfl⟩⟩ := serStep_cases hk
    · exact .inl ⟨_, rfl, rfl⟩
    · exact .inl ⟨_, rfl, rfl⟩
    · exact .inr ⟨rfl, State.encsLeft_next he (by simp) rfl rfl⟩
  · exact .inl ⟨_, rfl, rfl⟩

/-- At `END` one step is left. -/
theorem State.stepsLeft_at_finish {s : State} (hb : s.busy = true) (hpos : s.PositionOk)
    (he : progRom s.proto s.step = some .finish) : s.stepsLeft = 1 := by
  rw [State.stepsLeft_of_busy hb, State.pending_of_not_enc hb hpos he (by simp), State.laterSegs, State.encsLeft,
    progRom_drop he, progRom_finish_last he]
  rfl

/-- Every sequencer step takes one from the steps left: what it emits is no longer pending. -/
theorem seqStep_stepsLeft {s t : State} (h : seqStep s = .next t) (hb : s.busy = true) (hpos : s.PositionOk) :
    t.stepsLeft + 1 = s.stepsLeft := by
  obtain hk | ⟨he, rfl⟩ := seqStep_busy_cases h
  · obtain ⟨hout, -⟩ := seqStep_conserves h hb hpos
    have hlen := congrArg List.length hout
    rw [State.stepsLeft_of_busy hb, State.stepsLeft_of_busy (hk.trans hb)]
    obtain ⟨g, htr, henc⟩ | ⟨htr, henc⟩ := seqStep_emits_or_passes_enc h
    · simp only [htr, List.length_append, List.length_singleton] at hlen
      omega
    · simp only [htr, List.length_append] at hlen
      omega
  · rw [State.stepsLeft_at_finish hb hpos he, State.stepsLeft_of_idle s.endFrame_busy]

/-- At the start of a frame, all of its steps are left. -/
theorem State.stepsLeft_accept (p : Payloads) (t : Temp) (s : State) :
    (s.accept p t).stepsLeft = frameSteps p.proto p.n0.toNat p.n1.toNat := by
  rw [State.stepsLeft_of_busy rfl]
  have hencs : (s.accept p t).encsLeft = 2 := program_encs p.proto
  rw [hencs, frameSteps]
  simp only [State.pending, State.accept_busy, if_true, State.accept_proto]
  cases p.proto with
  | nec =>
    simp [program, necProg, State.elementSegs, State.elementDone, State.slotCnt]
    omega
  | ac =>
    simp [program, acProg, State.elementSegs, State.elementDone, State.slotCnt]
    omega

/-- An accepted request has the steps of its frame left. -/
theorem exec_stepsLeft {i : Instr} {s u : State} (h : exec i s = .next u) : u.stepsLeft = requestSteps i := by
  obtain ⟨p, t, hl, rfl⟩ := exec_eq_next h
  obtain ⟨⟨hp, h0, h1, hd⟩ | ⟨hp, h0, h1, hd⟩, -⟩ := lookup_cases hl
  · rw [State.stepsLeft_accept, hp, h0, h1, requestSteps, hd]
    rfl
  · rw [State.stepsLeft_accept, hp, h0, h1, requestSteps, hd]
    rfl

/-! ### Steps of a frame in progress -/

/-- A legal core is busy exactly while its frame has steps left. -/
theorem State.busy_iff_stepsLeft_pos {s : State} (hs : s.Legal) : s.busy = true ↔ 0 < s.stepsLeft := by
  constructor
  · intro hb
    have hf := hs.frame hb
    obtain ⟨u, hu⟩ := seqStep_answers hf.position hf.counts
    have := seqStep_stepsLeft hu hb hf.position
    omega
  · intro hleft
    by_contra hb
    rw [State.stepsLeft_of_idle (Bool.eq_false_iff.2 hb)] at hleft
    exact Nat.lt_irrefl 0 hleft

/-- What `k` steps of a frame in progress do: they stay legal, keep the temperature and the output, take `k` from the
steps left, and hold a request that stands on the port (10_state.md R29). -/
structure FrameAdvance (k : Nat) (s u : State) : Prop where
  legal : u.Legal
  temp : u.temp = s.temp
  output : u.trace ++ u.pending = s.trace ++ s.pending
  stepsLeft : u.stepsLeft + k = s.stepsLeft
  inputs : u.inputs = heldInputs^[k] s.inputs

theorem FrameAdvance.refl {s : State} (hs : s.Legal) : FrameAdvance 0 s s := ⟨hs, rfl, rfl, rfl, rfl⟩

theorem FrameAdvance.cons {k : Nat} {s t u : State} (h : FrameAdvance 1 s t) (h' : FrameAdvance k t u) :
    FrameAdvance (k + 1) s u where
  legal := h'.legal
  temp := h'.temp.trans h.temp
  output := h'.output.trans h.output
  stepsLeft := by have := h.stepsLeft; have := h'.stepsLeft; omega
  inputs := by rw [h'.inputs, h.inputs]; rfl

/-- Without reset, an edge of a legal busy core advances its frame by one step. -/
theorem step_frameAdvance {s : State} (hs : s.Legal) (hb : s.busy = true) (hn : NoReset s.inputs) :
    ∃ t, step s = .next t ∧ FrameAdvance 1 s t := by
  have hf := hs.frame hb
  obtain ⟨u, hu⟩ := seqStep_answers hf.position hf.counts
  have hstep : step s = .next { u with inputs := heldInputs s.inputs } := by
    rw [step_of_busy hb hn, hu, mapNext_next]
  obtain ⟨htemp, -⟩ := seqStep_frame hu
  obtain ⟨hout, -⟩ := seqStep_conserves hu hb hf.position
  have hleft : u.stepsLeft + 1 = s.stepsLeft := seqStep_stepsLeft hu hb hf.position
  exact ⟨_, hstep, stepKeepsLegal _ _ hs hstep, htemp, hout, hleft, rfl⟩

/-- A frame in progress goes on without reset for as many steps as it has left. -/
theorem run_frameAdvance {k : Nat} {s : State} (hs : s.Legal) (hn : NoReset s.inputs) (hk : k ≤ s.stepsLeft) :
    ∃ u, run k s = .next u ∧ FrameAdvance k s u := by
  induction k generalizing s with
  | zero => exact ⟨s, rfl, .refl hs⟩
  | succ k ih =>
    have hb : s.busy = true := (State.busy_iff_stepsLeft_pos hs).2 (by omega)
    obtain ⟨t, ht, hst⟩ := step_frameAdvance hs hb hn
    have hleft := hst.stepsLeft
    obtain ⟨u, hu, htu⟩ := ih hst.legal (by rw [hst.inputs]; exact hn.held) (by omega)
    exact ⟨u, by rw [run_succ, ht, andThen_next, hu], hst.cons htu⟩

theorem State.pending_of_idle {s : State} (hb : s.busy = false) : s.pending = [] := by simp [State.pending, hb]

/-! ### A request, from its acceptance to its end (44_command_lookup.md R128) -/

/-- Without reset, the accepting edge of a legal core leaves the request's whole frame to be sent. -/
theorem step_accept {s : State} {i : Instr} (hs : s.Legal) (hn : NoReset s.inputs) (he : edgeEvent s = .accept i) :
    ∃ u, step s = .next u ∧ u.Legal ∧ u.trace = [] ∧ u.pending = segs i s.temp ∧ u.temp = tempAfter s.temp i ∧
      u.stepsLeft = requestSteps i ∧ u.inputs = s.inputs.tail := by
  obtain ⟨⟨p, t⟩, hl⟩ := lookup_isSome i hs.tempRange
  have hx : exec i s = .next (s.accept p t) := exec_of_lookup hl
  obtain ⟨-, htrace, hpend, htemp, -⟩ := exec_pending hx
  have hleft : (s.accept p t).stepsLeft = requestSteps i := exec_stepsLeft hx
  have hstep : step s = .next { s.accept p t with inputs := s.inputs.tail } := by
    rw [step_of_accept he, hx, mapNext_next, State.drive_quiet _ hn.tail]
  exact ⟨_, hstep, stepKeepsLegal _ _ hs hstep, htrace, hpend, htemp, hleft, rfl⟩

/-- After the accepting edge and all the steps of its frame, a request has been sent whole and the core is idle. -/
theorem run_request {s : State} {i : Instr} (hs : s.Legal) (hn : NoReset s.inputs) (he : edgeEvent s = .accept i) :
    ∃ t, run (1 + requestSteps i) s = .next t ∧ t.Legal ∧ t.busy = false ∧ t.trace = segs i s.temp ∧
      t.temp = tempAfter s.temp i ∧ t.inputs = heldInputs^[requestSteps i] s.inputs.tail := by
  obtain ⟨u, hu, hul, htrace, hpend, htemp, hleft, hin⟩ := step_accept hs hn he
  obtain ⟨t, ht, hut⟩ := run_frameAdvance hul (by rw [hin]; exact hn.tail) hleft.ge
  have hidle : t.busy = false := by
    have hend := hut.stepsLeft
    exact Bool.eq_false_iff.2 fun hb => absurd ((State.busy_iff_stepsLeft_pos hut.legal).1 hb) (by omega)
  have hout : t.trace = segs i s.temp := by
    simpa [htrace, hpend, State.pending_of_idle hidle] using hut.output
  exact ⟨t, by rw [Nat.add_comm, run_succ, hu, andThen_next, ht], hut.legal, hidle, hout, hut.temp.trans htemp,
    hin ▸ hut.inputs⟩

/-! ### A list of requests (30_encoding.md R64) -/

/-- An edge that accepts nothing leaves a script of requests as it is: its first request is held. -/
theorem heldInputs_scriptOf (requests : List Instr) : heldInputs (scriptOf requests) = scriptOf requests := by
  cases requests with
  | nil => rfl
  | cons i rest => rfl

/-- An idle core accepts the first request of a script. -/
theorem edgeEvent_scriptOf {s : State} {i : Instr} {rest : List Instr} (hb : s.busy = false)
    (hin : s.inputs = scriptOf (i :: rest)) : edgeEvent s = .accept i := by
  refine edgeEvent_accept.2 ⟨NoReset.rst (hin ▸ scriptOf_noReset _), hb, ?_, ?_⟩
  · simp [State.reqValid, hin, scriptOf]
  · simp [State.reqCode, hin, scriptOf, decodeReq_encode]

/-- The first request of a script is performed, and the rest of the script is then presented. -/
theorem run_first_request {s : State} {i : Instr} {rest : List Instr} (hs : s.Legal) (hb : s.busy = false)
    (hin : s.inputs = scriptOf (i :: rest)) :
    ∃ t, run (1 + requestSteps i) s = .next t ∧ t.Legal ∧ t.busy = false ∧ t.trace = segs i s.temp ∧
      t.temp = tempAfter s.temp i ∧ t.inputs = scriptOf rest := by
  obtain ⟨t, ht, hl, hidle, htrace, htemp, hheld⟩ :=
    run_request hs (hin ▸ scriptOf_noReset _) (edgeEvent_scriptOf hb hin)
  have hrest : s.inputs.tail = scriptOf rest := by rw [hin]; rfl
  rw [hrest, Function.iterate_fixed (heldInputs_scriptOf rest)] at hheld
  exact ⟨t, ht, hl, hidle, htrace, htemp, hheld⟩

/-- A run in two parts. -/
theorem run_add (m n : Nat) (s : State) : run (m + n) s = andThen (run m s) (run n) := by
  induction m generalizing s with
  | zero => rw [Nat.zero_add, run_zero, andThen_next]
  | succ m ih =>
    rw [Nat.add_right_comm, run_succ, run_succ]
    cases step s with
    | next t => exact ih t
    | fault e => rfl
    | refused e => rfl

/-- Settles O55, by induction on the list of requests: the first is performed whole, and the state it leaves is again a
legal idle one, whose script presents the rest. -/
theorem programsRunInOrder : Obligations.ProgramsRunInOrder := by
  intro requests
  induction requests with
  | nil => exact fun s _ hb hin => ⟨s, rfl, hb, hin, rfl, by simp⟩
  | cons i rest ih =>
    intro s hs hb hin
    obtain ⟨t, ht, htl, htb, httrace, httemp, htin⟩ := run_first_request hs hb hin
    obtain ⟨u, hu, hub, huin, hutemp, hulast⟩ := ih t htl htb htin
    refine ⟨u, ?_, hub, huin, by rw [hutemp, httemp]; rfl, fun before j hsplit => ?_⟩
    · rw [List.map_cons, List.sum_cons, run_add, ht, andThen_next, hu]
    · cases before with
      | nil =>
        obtain ⟨rfl, rfl⟩ : i = j ∧ rest = [] := by simpa using hsplit
        obtain rfl : t = u := by simpa using hu
        exact httrace
      | cons i' before =>
        obtain ⟨rfl, hrest⟩ : i = i' ∧ rest = before ++ [j] := by simpa using hsplit
        rw [hulast before j hrest, httemp]
        rfl

end Sys2Proof.Machine

/-! The request word and its fields, the table words, the elements' ROM encoding, the assembler's lines, and the
alternation of a frame's segments (30_encoding.md R60 to R68). -/

namespace Sys2Proof

open Machine (alternating decodeReq_encode)

/-! ### The fields of the request word -/

@[simp] theorem Instr.ofRequest_device (d : Device) (c : Command) : (Instr.ofRequest d c).device = d := by
  cases d <;> cases c <;> rfl

@[simp] theorem Instr.ofRequest_command (d : Device) (c : Command) : (Instr.ofRequest d c).command = c := by
  cases d <;> cases c <;> rfl

@[simp] theorem decodeReq_device (c : Code) : (decodeReq c).device = devField c := Instr.ofRequest_device _ _

@[simp] theorem decodeReq_command (c : Code) : (decodeReq c).command = cmdField c := Instr.ofRequest_command _ _

/-- Reading the field `dev` loses nothing: the device read stands for bit 2 of the word. -/
theorem devBits_devField (c : Code) : devBits (devField c) = c.extractLsb' 2 1 := by
  revert c; decide

/-- Reading the field `cmd` loses nothing: the command read stands for bits 1..0 of the word. -/
theorem cmdBits_cmdField (c : Code) : cmdBits (cmdField c) = c.extractLsb' 0 2 := by
  revert c; decide

theorem devBits_injective : Function.Injective devBits := by
  intro d e
  cases d <;> cases e <;> decide

theorem cmdBits_injective : Function.Injective cmdBits := by
  intro c d
  cases c <;> cases d <;> decide

theorem device_of_dev_bits (d : Device) {c : Code} (h : c.extractLsb' 2 1 = devBits d) : (decodeReq c).device = d :=
  devBits_injective (by rw [decodeReq_device, devBits_devField, h])

theorem command_of_cmd_bits (m : Command) {c : Code} (h : c.extractLsb' 0 2 = cmdBits m) : (decodeReq c).command = m :=
  cmdBits_injective (by rw [decodeReq_command, cmdBits_cmdField, h])

/-- Settles O1: each field's bits are those of one device or command, and the decoder reads that one. -/
theorem requestWordFields : Obligations.RequestWordFields := fun _ =>
  ⟨device_of_dev_bits .tv, device_of_dev_bits .ac, command_of_cmd_bits .powerOn, command_of_cmd_bits .powerOff,
    command_of_cmd_bits .plus, command_of_cmd_bits .minus⟩

/-- Settles O2: each word of the map is the encoding of the request on its line. -/
theorem opcodeMapWords : Obligations.OpcodeMapWords :=
  ⟨decodeReq_encode .tvPowerOn, decodeReq_encode .tvPowerOff, decodeReq_encode .tvPlus, decodeReq_encode .tvMinus,
    decodeReq_encode .acPowerOn, decodeReq_encode .acPowerOff, decodeReq_encode .acPlus, decodeReq_encode .acMinus⟩

/-! ### Decoding and encoding, on the port and in a byte -/

/-- A word is its two fields, so encoding what it decodes to gives it back. -/
theorem encode_decodeReq (c : Code) : encode (decodeReq c) = c := by
  rw [encode, decodeReq_device, decodeReq_command, devBits_devField, cmdBits_cmdField]
  exact @BitVec.extractLsb'_append_extractLsb' 1 2 c

theorem decodeReq_eq_iff {c : Code} {i : Instr} : decodeReq c = i ↔ c = encode i := by
  constructor
  · rintro rfl
    exact (encode_decodeReq c).symm
  · rintro rfl
    exact decodeReq_encode i

/-- A byte holds a request exactly when it is the request's code: bits 7..3 are 0 (30_encoding.md R63). -/
theorem decodeBytes_cons_eq_instr {b : Byte} {rest rest' : List Byte} {i : Instr} :
    decodeBytes (b :: rest) = .instr i rest' ↔ b.toNat = (encode i).toNat ∧ rest = rest' := by
  have hcode : (encode i).toNat < 8 := (encode i).isLt
  by_cases hb : b.toNat < 8
  · have hword : decodeReq (b.setWidth 3) = i ↔ b.toNat = (encode i).toNat := by
      rw [decodeReq_eq_iff, ← BitVec.toNat_inj, BitVec.toNat_setWidth, Nat.mod_eq_of_lt hb]
    simp [decodeBytes, hb, hword]
  · have hne : b.toNat ≠ (encode i).toNat := by omega
    simp [decodeBytes, hb, hne]

theorem decodeBytes_encodeBytes (i : Instr) : decodeBytes (encodeBytes i) = .instr i [] :=
  decodeBytes_cons_eq_instr.2 ⟨BitVec.toNat_setWidth_of_le (by decide), rfl⟩

/-- Settles O3: encoding and decoding are inverse on the port, and the byte of a code decodes to that code's request. -/
theorem decodeEncodeAgree : Obligations.DecodeEncodeAgree :=
  ⟨fun i _ => ⟨decodeReq_encode i, decodeBytes_encodeBytes i⟩, fun c => ⟨rfl, encode_decodeReq c⟩⟩

/-! ### Table words -/

theorem wordBytes_eq_nil {k w : Nat} : wordBytes k w = [] ↔ k = 0 := by cases k <;> simp [wordBytes]

/-- A table word is a request where its bytes hold one request and nothing after it. -/
theorem decodeTableWord_eq_some {nbits w : Nat} {i : Instr} :
    decodeTableWord nbits w = some i ↔ decodeBytes (wordBytes ((nbits + 7) / 8) w) = .instr i [] := by
  unfold decodeTableWord
  split <;> simp [*]

/-- Settles O4: no byte holds no request, one byte holds its code, and of several bytes some are left over. -/
theorem tableWordsDecodeExactly : Obligations.TableWordsDecodeExactly := by
  intro nbits w i
  rw [decodeTableWord_eq_some]
  cases hk : (nbits + 7) / 8 with
  | zero =>
    have hbits : ¬1 ≤ nbits := by omega
    simp [wordBytes, decodeBytes, hbits]
  | succ k =>
    have hbits : k = 0 ↔ 1 ≤ nbits ∧ nbits ≤ 8 := by omega
    rw [wordBytes, decodeBytes_cons_eq_instr, wordBytes_eq_nil, BitVec.toNat_ofNat, hbits]
    exact and_comm.trans and_assoc

/-! ### Frame-program elements in their ROM -/

theorem decodeElement_mark (arg : BitVec 17) : decodeElement 0b00#2 arg = .mark arg.toNat := rfl

theorem decodeElement_space (arg : BitVec 17) : decodeElement 0b01#2 arg = .space arg.toNat := rfl

theorem Element.wellFormed_mark {d : Nat} : (Element.mark d).wellFormed = true ↔ 0 < d ∧ d < 2 ^ 17 := by
  simp [Element.wellFormed]

theorem Element.wellFormed_space {d : Nat} : (Element.space d).wellFormed = true ↔ 0 < d ∧ d < 2 ^ 17 := by
  simp [Element.wellFormed]

/-- A duration of 17 bits is read back from its field (30_encoding.md R68). -/
theorem toNat_ofNat_duration {d : Nat} (h : d < 2 ^ 17) : (BitVec.ofNat 17 d).toNat = d := by
  rw [BitVec.toNat_ofNat, Nat.mod_eq_of_lt h]

theorem decodeElement_kind_argument {e : Element} (h : e.wellFormed = true) :
    decodeElement e.kind e.argument = e := by
  cases e with
  | mark d =>
    have hd := (Element.wellFormed_mark.1 h).2
    exact (decodeElement_mark _).trans (congrArg Element.mark (toNat_ofNat_duration hd))
  | space d =>
    have hd := (Element.wellFormed_space.1 h).2
    exact (decodeElement_space _).trans (congrArg Element.space (toNat_ofNat_duration hd))
  | enc k => cases k <;> rfl
  | finish => rfl

theorem program_wellFormed (p : Protocol) : programWellFormed (program p) = true := by cases p <;> decide

/-- Settles O5: a duration of 17 bits keeps its value in the argument field, and both programs are well formed. -/
theorem elementRomRoundTrip : Obligations.ElementRomRoundTrip :=
  ⟨fun _ h => decodeElement_kind_argument h, program_wellFormed⟩

/-! ### Assembler lines -/

/-- The text of a line ends where its comment starts. -/
theorem lineText_comment (line comment : List Char) : lineText (line ++ ';' :: comment) = lineText line := by
  have hstop : (line ++ ';' :: comment).takeWhile (fun ch => !decide (ch = ';')) =
      line.takeWhile fun ch => !decide (ch = ';') := by
    induction line with
    | nil => rfl
    | cons ch line ih => rw [List.cons_append, List.takeWhile_cons, List.takeWhile_cons, ih]
  rw [lineText, hstop, lineText]

/-- A blank at the end of a line is not part of its text. -/
theorem lineText_blank (line : List Char) : lineText (line ++ [' ']) = lineText line := by
  have hstrip (l : List Char) :
      ((l ++ [' ']).dropWhile isBlank).rdropWhile isBlank = (l.dropWhile isBlank).rdropWhile isBlank := by
    rw [List.dropWhile_append]
    split
    next hall => rw [List.isEmpty_iff.1 hall]; rfl
    next => exact List.rdropWhile_concat_pos _ _ _ rfl
  unfold lineText
  rw [List.takeWhile_append]
  split
  next hlen => rw [(List.takeWhile_prefix _).eq_of_length hlen]; exact hstrip line
  next => rfl

/-- A blank and a comment after a line do not change what it assembles to. -/
theorem assembleLine_blank_comment (line comment : List Char) :
    assembleLine (line ++ ' ' :: ';' :: comment) = assembleLine line := by
  have htext : lineText (line ++ ' ' :: ';' :: comment) = lineText line := by
    rw [List.append_cons, lineText_comment, lineText_blank]
  rw [assembleLine, htext, assembleLine]

theorem assembleLine_mnemonic (i : Instr) : assembleLine i.mnemonic.toList = .request i := by cases i <;> decide

theorem assembleLine_toggle : assembleLine "TV.TOGGLE".toList = .request .tvPowerOn := by decide

/-- A line that assembles to a request holds a name the assembler knows for it. -/
theorem lineText_mem_assemblerNames {line : List Char} {i : Instr} (h : assembleLine line = .request i) :
    (lineText line, i) ∈ assemblerNames := by
  unfold assembleLine at h
  split at h
  next => cases h
  next =>
    split at h
    next j hj =>
      obtain rfl : j = i := by simpa using h
      obtain ⟨before, after, hnames, -⟩ := List.lookup_eq_some_iff.1 hj
      simp [hnames]
    next => cases h

/-- The names the assembler knows are the requests' own and one more, `TV.TOGGLE` (30_encoding.md R65). -/
theorem mem_assemblerNames {text : List Char} {i : Instr} (h : (text, i) ∈ assemblerNames) :
    text = i.mnemonic.toList ∨ text = "TV.TOGGLE".toList ∧ i = .tvPowerOn := by
  have hnames : ∀ n ∈ assemblerNames,
      n.1 = n.2.mnemonic.toList ∨ n.1 = "TV.TOGGLE".toList ∧ n.2 = .tvPowerOn := by decide
  exact hnames _ h

/-- Settles O6: a line counts by its text only, and the table of names holds the requests' names and `TV.TOGGLE`. -/
theorem Encoding.assemblerNames : Obligations.AssemblerNames :=
  ⟨assembleLine_mnemonic, assembleLine_toggle, fun _ _ h => mem_assemblerNames (lineText_mem_assemblerNames h),
    fun i comment => (assembleLine_blank_comment _ comment).trans (assembleLine_mnemonic i)⟩

/-! ### Alternation -/

/-- A payload's symbols are whole pairs of mark and space, so the same kind of segment is due after them as before. -/
@[simp] theorem alternating_encodeBits_append (v n : Nat) (l : List Segment) :
    alternating true (encodeBits v n ++ l) = alternating true l := by
  induction n generalizing l with
  | zero => rfl
  | succ n ih =>
    rw [encodeBits_succ, List.append_assoc, ih]
    rfl

theorem alternating_acFrame (a na b nb : Nat) : alternating true (acFrame a na b nb) = true := by
  simp [acFrame, alternating]

theorem alternating_necFrame (a na c nc : Nat) : alternating true (necFrame a na c nc) = true := by
  simp [necFrame, alternating]

/-- Settles O11: the segments around the payloads alternate, and a payload of any count keeps the alternation. -/
theorem framesAlternate : Obligations.FramesAlternate := fun a na b nb =>
  ⟨alternating_acFrame a na b nb, alternating_necFrame a na b nb⟩

end Sys2Proof

/-! The pulse primitives and the durations the core gives them, the sequencer's step at each element, and durations in
clock cycles (40_pulse_generator.md R80 to R85). -/

namespace Sys2Proof

open Machine (frameCycles)

/-! ### The durations of a frame's segments (40_pulse_generator.md R80, R81) -/

/-- The segment is one that the core sends: its duration is one that R80 gives a mark, or R81 a space. -/
def Segment.DurationListed : Segment → Prop
  | .mark d => d = 560 ∨ d = 562 ∨ d = 8992
  | .space d => d = 560 ∨ d = 1680 ∨ d = 2250 ∨ d = 4496 ∨ d = 20654 ∨ d = 41425 ∨ d = 96293
  | .release => True

theorem symbol_durationListed (b : Bool) : ∀ g ∈ symbol b, g.DurationListed := by
  cases b <;> simp [symbol, symbolMark, symbolSpace, Segment.DurationListed]

theorem encodeBits_durationListed (v n : Nat) : ∀ g ∈ encodeBits v n, g.DurationListed := fun g hg => by
  obtain ⟨i, -, hi⟩ := List.mem_flatMap.1 hg
  exact symbol_durationListed _ g hi

theorem acFrame_durationListed (a na b nb : Nat) : ∀ g ∈ acFrame a na b nb, g.DurationListed := by
  simp only [acFrame, List.forall_mem_append]
  refine ⟨⟨⟨⟨?_, encodeBits_durationListed a na⟩, ?_⟩, encodeBits_durationListed b nb⟩, ?_⟩ <;>
    simp [Segment.DurationListed]

theorem necFrame_durationListed (a na c nc : Nat) : ∀ g ∈ necFrame a na c nc, g.DurationListed := by
  simp only [necFrame, List.forall_mem_append]
  refine ⟨⟨⟨?_, encodeBits_durationListed a na⟩, encodeBits_durationListed c nc⟩, ?_⟩ <;>
    simp [Segment.DurationListed]

theorem frameOf_durationListed (p : Payloads) : ∀ g ∈ frameOf p, g.DurationListed := by
  unfold frameOf
  split
  · exact acFrame_durationListed _ _ _ _
  · exact necFrame_durationListed _ _ _ _

/-- SEGS is the frame of what LOOKUP gives, and empty where LOOKUP gives nothing. -/
theorem segs_eq_lookup (i : Instr) (t : Temp) :
    segs i t = ((lookup i.device i.command t).map fun r => frameOf r.1).getD [] := by
  simp only [segs, dispatch, Option.map_map]
  rfl

theorem segs_durationListed (i : Instr) (t : Temp) : ∀ g ∈ segs i t, g.DurationListed := by
  rw [segs_eq_lookup]
  cases lookup i.device i.command t with
  | none => simp
  | some r => exact frameOf_durationListed r.1

/-- Settles O14: the primitives are read off their definitions, and every frame is built of listed durations. -/
theorem pulsePrimitives : Obligations.PulsePrimitives :=
  ⟨fun _ _ => rfl, fun _ _ => rfl, fun _ => rfl, fun i t _ h => segs_durationListed i t _ h,
    fun i t _ h => segs_durationListed i t _ h⟩

/-! ### Durations in clock cycles (40_pulse_generator.md R84, R85; 10_state.md R28) -/

/-- A clock of `m` MHz stretches a segment list by `m`: after `k` cycles the line is where it is after `k / m` µs. -/
theorem levelAt_map_mhz {m : Nat} (hm : 0 < m) (l : List Segment) (k : Nat) :
    levelAt (l.map (Segment.inCycles (m * 1000000))) k = levelAt l (k / m) := by
  induction l generalizing k with
  | nil => rfl
  | cons g rest ih =>
    have hin : k < m * g.duration ↔ k / m < g.duration := by rw [Nat.div_lt_iff_lt_mul hm, Nat.mul_comm]
    simp only [List.map_cons, levelAt, Segment.inCycles_duration, Segment.inCycles_level, cyclesOf_mhz, ih, hin,
      Nat.sub_mul_div]

theorem frameCycles_cons (clkHz : Nat) (g : Segment) (l : List Segment) :
    frameCycles clkHz (g :: l) = cyclesOf clkHz g.duration + frameCycles clkHz l := by
  simp [frameCycles]

theorem frameCycles_mhz (m : Nat) (l : List Segment) : frameCycles (m * 1000000) l = m * totalDuration l := by
  induction l with
  | nil => rfl
  | cons g rest ih => rw [frameCycles_cons, ih, cyclesOf_mhz, totalDuration_cons, Nat.mul_add]

/-- On a clock of at most 1 MHz no segment takes more cycles than it takes µs. -/
theorem cyclesOf_le_of_slow {clkHz : Nat} (h : clkHz ≤ 1000000) (d : Nat) : cyclesOf clkHz d ≤ d := by
  have hd : d * clkHz ≤ d * 1000000 := Nat.mul_le_mul_left d h
  have := (cyclesOf_bounds clkHz d).2
  omega

/-- Settles O60: rounding up bounds the error, a whole number of MHz leaves none, and the longest segment has 17 bits. -/
theorem clockCyclesOfDurations : Obligations.ClockCyclesOfDurations := by
  refine ⟨cyclesOf_bounds, fun m l k hm => ⟨levelAt_map_mhz hm l k, frameCycles_mhz m l⟩, fun clkHz s hc hs => ?_⟩
  calc s.remain ≤ cyclesOf clkHz longestSegment := hs
    _ ≤ longestSegment := cyclesOf_le_of_slow hc longestSegment
    _ < 2 ^ 17 := by decide

end Sys2Proof

namespace Sys2Proof.Machine

/-! ### The sequencer's step at each element (40_pulse_generator.md R83) -/

theorem seqStep_at {s : State} {e : Element} (h : progRom s.proto s.step = some e) : seqStep s = runElement e s := by
  simp only [seqStep, h]

/-- Settles O18: a step runs the element it reads, and is refused where it reads none. -/
theorem sequencerStep : Obligations.SequencerStep := fun s =>
  ⟨fun _ h => seqStep_at h, fun _ h => seqStep_at h, fun _ h => seqStep_at h, fun h => seqStep_at h,
    fun h => by simp only [seqStep, h]⟩

end Sys2Proof.Machine

/-! The time-level form, edge by edge (40_pulse_generator.md R84): the segment that a sequencer step emits, what the counters
leave alone, the invariants, and the end of every instant. -/

namespace Sys2Proof

/-! ### The segments of the frame programs (10_state.md R28) -/

/-- The segment takes time, and no more than the longest one. -/
def Segment.Timed (g : Segment) : Prop := 0 < g.duration ∧ g.duration ≤ longestSegment

/-- The segment that an element sends by itself. -/
def Element.ownSegment : Element → Option Segment
  | .mark d => some (.mark d)
  | .space d => some (.space d)
  | .enc _ => none
  | .finish => none

theorem progRom_ownSegment_timed {p : Protocol} {ix : StepIx} {e : Element} {g : Segment} (he : progRom p ix = some e)
    (hg : e.ownSegment = some g) : g.Timed := by
  have hall : ∀ e ∈ program p, ∀ g ∈ e.ownSegment, 0 < g.duration ∧ g.duration ≤ longestSegment := by
    cases p <;> decide
  exact hall e (List.mem_of_getElem? he) g hg

theorem symbolMark_timed : (Segment.mark symbolMark).Timed := by unfold Segment.Timed; decide

theorem symbolSpace_timed (b : Bool) : (Segment.space (symbolSpace b)).Timed := by
  unfold Segment.Timed; cases b <;> decide

/-- An `ENC` element is not the last one before `END`. -/
theorem progRom_after_enc {p : Protocol} {ix : StepIx} {k : Slot} (h : progRom p ix = some (.enc k)) :
    progRom p (ix + 1#4) ≠ some .finish := by
  cases p <;> cases k <;> decide +revert

end Sys2Proof

namespace Sys2Proof.Machine

/-! ### The segment that a sequencer step emits -/

/-- A sequencer step emits a segment that takes time, passes the end of an `ENC` element, or ends the frame. -/
theorem seqStep_segment_cases {s t : State} (h : seqStep s = .next t) :
    (∃ g, g.Timed ∧ t.trace = s.trace ++ [g] ∧ t.irGate = g.level ∧ t.busy = s.busy) ∨
      (∃ k, progRom s.proto s.step = some (.enc k) ∧ (s.slotCnt k).toNat ≤ s.bitIdx.toNat ∧ t = s.endEnc) ∨
      (progRom s.proto s.step = some .finish ∧ t = s.endFrame) := by
  obtain ⟨d, he, rfl⟩ | ⟨d, he, rfl⟩ | ⟨k, he, hk⟩ | hf := seqStep_cases h
  · exact .inl ⟨.mark d, progRom_ownSegment_timed he rfl, rfl, rfl, rfl⟩
  · exact .inl ⟨.space d, progRom_ownSegment_timed he rfl, rfl, rfl, rfl⟩
  · obtain ⟨-, ⟨-, -, rfl⟩ | ⟨-, -, rfl⟩ | ⟨hge, rfl⟩⟩ := serStep_cases hk
    · exact .inl ⟨_, symbolMark_timed, rfl, rfl, rfl⟩
    · exact .inl ⟨_, symbolSpace_timed _, rfl, rfl, rfl⟩
    · exact .inr (.inl ⟨k, he, hge, rfl⟩)
  · exact .inr (.inr hf)

theorem newDuration_le_longestSegment {s t : State} (h : seqStep s = .next t) : newDuration s t ≤ longestSegment := by
  obtain ⟨g, ⟨-, hle⟩, htr, -⟩ | ⟨k, -, -, rfl⟩ | ⟨-, rfl⟩ := seqStep_segment_cases h
  · rwa [newDuration_append htr]
  · rw [newDuration_silent s.endEnc_trace]; exact Nat.zero_le _
  · rw [newDuration_append s.endFrame_trace]; exact Nat.zero_le _

/-! ### The invariants do not look at the counters -/

theorem State.FrameOk.of_untimed {s t : State} (h : t.untimed = s.untimed) (hs : s.FrameOk) : t.FrameOk := by
  have hu : s.untimed.FrameOk := ⟨hs.count0, hs.count1, hs.fits0, hs.fits1, hs.position, hs.line⟩
  rw [← h] at hu
  exact ⟨hu.count0, hu.count1, hu.fits0, hu.fits1, hu.position, hu.line⟩

theorem State.SendsARequest.of_untimed {s t : State} (h : t.untimed = s.untimed) (hs : s.SendsARequest) :
    t.SendsARequest := by
  have hu : s.untimed.SendsARequest := hs
  rwa [← h] at hu

/-- A state whose ports have just been driven is legal if it differs from a legal one by its counters only. -/
theorem State.drive_legal_of_untimed {l : List Stimulus} {x v : State} (hv : v.Legal)
    (h : (x.drive l).untimed = v.untimed) : (x.drive l).Legal := by
  have htemp : (x.drive l).temp = v.temp := (congrArg State.temp h :)
  have hgate : (x.drive l).irGate = v.irGate := (congrArg State.irGate h :)
  have hbusy : (x.drive l).busy = v.busy := (congrArg State.busy h :)
  refine ⟨htemp ▸ hv.tempRange, fun hb => hgate.trans (hv.idleDark (hbusy ▸ hb)),
    fun hb => (hv.frame (hbusy ▸ hb)).of_untimed h, fun hr => ?_⟩
  obtain ⟨hr', -⟩ | ⟨-, hd⟩ := State.drive_cases l x
  · simp [hr'] at hr
  · rw [hd, State.resetRegisters_idem]

/-! ### The segment-level step on a legal state -/

theorem exec_answers (i : Instr) {s : State} (hs : s.Legal) : ∃ t, exec i s = .next t := by
  obtain ⟨⟨p, t⟩, hl⟩ := lookup_isSome i hs.tempRange
  exact ⟨_, exec_of_lookup hl⟩

/-- In a legal state an edge is refused nothing (60_exceptions.md R150). -/
theorem step_answers {s : State} (hs : s.Legal) : ∃ t, step s = .next t := by
  cases he : edgeEvent s with
  | reset => exact ⟨_, by simp only [step, he]; rfl⟩
  | idle => exact ⟨_, by simp only [step, he]; rfl⟩
  | accept i =>
    obtain ⟨u, hu⟩ := exec_answers i hs
    exact ⟨_, by simp only [step, he, hu]; rfl⟩
  | sequence =>
    have hf := hs.frame (edgeEvent_sequence.1 he).2
    obtain ⟨u, hu⟩ := seqStep_answers hf.position hf.counts
    exact ⟨_, by simp only [step, he, hu]; rfl⟩

/-- Driving the ports leaves a request's frame as it is, or resets the core. -/
theorem State.SendsARequest.drive {s : State} (l : List Stimulus) (hs : s.SendsARequest) : (s.drive l).SendsARequest :=
  fun hb => by
    obtain ⟨hd, hb'⟩ := State.drive_busy hb
    rw [hd]
    exact hs hb'

theorem State.sendsARequest_of_idle {s : State} (hb : s.busy = false) : s.SendsARequest := fun h => by simp [hb] at h

theorem exec_sendsARequest {i : Instr} {s u : State} (h : exec i s = .next u) (hs : s.Legal) : u.SendsARequest := by
  obtain ⟨-, htrace, hpend, htemp, -⟩ := exec_pending h
  exact fun _ => ⟨i, s.temp, hs.tempRange, htemp, by rw [htrace, hpend]; rfl⟩

theorem seqStep_sendsARequest {s u : State} (h : seqStep s = .next u) (hb : s.busy = true) (hs : s.Legal)
    (hsend : s.SendsARequest) : u.SendsARequest := fun _ => by
  obtain ⟨i, t, ht, htemp, hout⟩ := hsend hb
  obtain ⟨hkeep, -⟩ := seqStep_frame h
  obtain ⟨hcons, -⟩ := seqStep_conserves h hb (hs.frame hb).position
  exact ⟨i, t, ht, hkeep.trans htemp, hcons.trans hout⟩

/-- A step keeps a frame in progress on the segment list of a request (44_command_lookup.md R128). -/
theorem step_sendsARequest {s t : State} (h : step s = .next t) (hs : s.Legal) (hsend : s.SendsARequest) :
    t.SendsARequest := by
  obtain ⟨-, rfl⟩ | ⟨i, u, -, hu, rfl⟩ | ⟨u, he, hu, rfl⟩ | ⟨-, rfl⟩ := step_cases h
  · exact (State.sendsARequest_of_idle s.resetRegisters_busy).drive _
  · exact (exec_sendsARequest hu hs).drive _
  · exact (seqStep_sendsARequest hu (edgeEvent_sequence.1 he).2 hs hsend).drive _
  · exact hsend.drive _

/-! ### An edge of the time-level form keeps the invariants -/

/-- A counting edge changes nothing but its counter and the ports; every other edge is a segment-level step but for the
counters. -/
theorem timedEdge_refines (clkHz latency : Nat) (s : State) :
    mapNext State.untimed (timedEdgeWith clkHz latency s) = mapNext State.untimed (step s) ∨
      mapNext State.untimed (timedEdgeWith clkHz latency s) = .next s.afterEdge.untimed := by
  obtain ⟨hstep, hcount, -⟩ := cycleConservesOutput
  by_cases he : edgeEvent s = .sequence
  · obtain ⟨hlat, hrem⟩ := hcount clkHz latency s he
    rcases Nat.eq_zero_or_pos s.latencyLeft with hl | hl
    · rcases Nat.eq_zero_or_pos s.remain with hr | hr
      · exact .inl (hstep clkHz latency s fun _ => ⟨hl, hr⟩)
      · rw [hrem hl hr, mapNext_next, State.drive_untimed, State.afterEdge, State.drive_untimed]
        exact .inr rfl
    · rw [hlat hl, mapNext_next, State.drive_untimed, State.afterEdge, State.drive_untimed]
      exact .inr rfl
  · exact .inl (hstep clkHz latency s fun h => absurd h he)

/-- What holds of the segment-level step and of a core whose ports alone move on holds of the time-level edge. -/
theorem timedEdge_answers {P : State → Prop} (clkHz latency : Nat) {s : State} (hs : s.Legal)
    (hstep : ∀ v, step s = .next v → P v) (hcount : P s.afterEdge) :
    ∃ t v, timedEdgeWith clkHz latency s = .next t ∧ t.untimed = v.untimed ∧ P v := by
  obtain h | h := timedEdge_refines clkHz latency s
  · obtain ⟨v, hv⟩ := step_answers hs
    rw [hv] at h
    obtain ⟨t, ht, htv⟩ := mapNext_eq_next h
    exact ⟨t, v, ht, htv.symm, hstep v hv⟩
  · obtain ⟨t, ht, htv⟩ := mapNext_eq_next h
    exact ⟨t, s.afterEdge, ht, htv.symm, hcount⟩

/-- An edge ends by driving the ports. -/
theorem timedEdge_eq_drive {clkHz latency : Nat} {s t : State} (h : timedEdgeWith clkHz latency s = .next t) :
    ∃ x l, t = State.drive l x := by
  obtain ⟨-, rfl⟩ | ⟨i, u, -, -, rfl⟩ | ⟨u, -, -, rfl⟩ | ⟨-, rfl⟩ := timedEdge_cases h
  · exact ⟨_, _, rfl⟩
  · exact ⟨_, _, rfl⟩
  · exact ⟨_, _, rfl⟩
  · exact ⟨_, _, rfl⟩

/-- An edge of the time-level form takes a legal state to a legal state, and keeps a request's frame. -/
theorem timedEdge_legal (clkHz latency : Nat) {s : State} (hs : s.Legal) :
    ∃ t, timedEdgeWith clkHz latency s = .next t ∧ t.Legal ∧ (s.SendsARequest → t.SendsARequest) := by
  obtain ⟨t, v, ht, htv, hv, hsend⟩ := timedEdge_answers
    (P := fun v => v.Legal ∧ (s.SendsARequest → v.SendsARequest)) clkHz latency hs
    (fun v hv => ⟨stepKeepsLegal s v hs hv, step_sendsARequest hv hs⟩)
    ⟨State.drive_legal _ hs.tempRange hs.idleDark hs.frame, fun h => h.drive _⟩
  obtain ⟨x, l, rfl⟩ := timedEdge_eq_drive ht
  exact ⟨_, ht, State.drive_legal_of_untimed hv htv, fun h => (hsend h).of_untimed htv⟩

/-- Driving the ports leaves the counter, or resets it. -/
theorem State.RemainFits.drive {clkHz : Nat} {s : State} (l : List Stimulus) (hs : s.RemainFits clkHz) :
    (s.drive l).RemainFits clkHz := by
  obtain ⟨-, hd⟩ | ⟨-, hd⟩ := State.drive_cases l s
  · rw [hd]; exact hs
  · rw [hd]; exact Nat.zero_le _

theorem proceed_remainFits {clkHz : Nat} {s t : State} (h : proceed clkHz s = .next t) (hs : s.RemainFits clkHz) :
    t.RemainFits clkHz := by
  obtain ⟨-, rfl⟩ | ⟨-, -, rfl⟩ | ⟨-, -, u, hu, rfl⟩ := proceed_cases h
  · exact hs
  · exact (Nat.sub_le _ _).trans hs
  · exact cyclesOf_mono (newDuration_le_longestSegment hu)

/-- No edge takes the counter above the longest segment (10_state.md R28). -/
theorem timedEdge_remainFits {clkHz latency : Nat} {s t : State} (h : timedEdgeWith clkHz latency s = .next t)
    (hs : s.RemainFits clkHz) : t.RemainFits clkHz := by
  have hzero : ∀ u : State, u.remain = 0 → u.RemainFits clkHz := fun u hu => by
    rw [State.RemainFits, hu]; exact Nat.zero_le _
  obtain ⟨-, rfl⟩ | ⟨i, u, -, -, rfl⟩ | ⟨u, -, hu, rfl⟩ | ⟨-, rfl⟩ := timedEdge_cases h
  · exact (hzero _ s.resetRegisters_remain).drive _
  · exact (hzero _ (u.startLatency_remain latency)).drive _
  · exact (proceed_remainFits hu hs).drive _
  · exact hs.drive _

/-! ### Every instant ends -/

theorem edgeCycles_eq_one {s : State} (h : s.edgeCycles ≠ 0) : s.edgeCycles = 1 := by
  have := edgeCycles_le_one s
  omega

/-- An edge at which a frame's time is counted down takes a cycle. -/
theorem edgeCycles_of_remain {s : State} (hb : s.busy = true) (hr : 0 < s.remain) : s.edgeCycles = 1 := by
  refine edgeCycles_eq_one fun h => ?_
  obtain ⟨i, hi⟩ | ⟨-, -, h0⟩ := edgeCycles_eq_zero.1 h
  · obtain ⟨-, hidle, -⟩ := edgeEvent_accept.1 hi
    simp [hb] at hidle
  · omega

theorem edgeCycles_of_rst {s : State} (hr : s.rst = true) : s.edgeCycles = 1 := by
  simp only [State.edgeCycles, edgeEvent_reset.2 hr]

/-- Where a cycle passes, a frame in progress has time left to pass (log 24). -/
theorem State.Legal.timeOk {s : State} (hs : s.Legal) (h : s.edgeCycles = 1) : s.TimeOk := by
  intro hb
  have hr : s.rst = false := by
    refine Bool.eq_false_iff.2 fun hr => ?_
    rw [hs.resetHeld hr] at hb
    simp at hb
  by_contra hleft
  have h0 : s.edgeCycles = 0 := edgeCycles_eq_zero.2 (.inr ⟨edgeEvent_sequence.2 ⟨hr, hb⟩, by omega, by omega⟩)
  omega

/-- An edge that takes no time, with no reset after it, accepts a request or runs a `SeqStep`. -/
theorem instantEdge_cases {clkHz latency : Nat} {s t : State} (h0 : s.edgeCycles = 0)
    (h : timedEdgeWith clkHz latency s = .next t) (hr : t.rst = false) :
    (s.busy = false ∧ ∃ i u, exec i s = .next u ∧ t = { u.startLatency latency with inputs := u.inputs.tail }) ∨
      (s.busy = true ∧ ∃ u, seqStep s = .next u ∧
        t = { s.loadRemain clkHz u with inputs := heldInputs u.inputs }) := by
  obtain ⟨i, hi⟩ | ⟨hq, hl0, hr0⟩ := edgeCycles_eq_zero.1 h0
  · obtain ⟨-, hidle, -⟩ := edgeEvent_accept.1 hi
    simp only [timedEdgeWith, hi] at h
    obtain ⟨u, hu, rfl⟩ := mapNext_eq_next h
    exact .inl ⟨hidle, i, u, hu, State.drive_of_rst_false hr⟩
  · obtain ⟨-, hb⟩ := edgeEvent_sequence.1 hq
    simp only [timedEdgeWith, hq, proceed_of_expired hl0 hr0, mapNext_mapNext] at h
    obtain ⟨u, hu, rfl⟩ := mapNext_eq_next h
    exact .inr ⟨hb, u, hu, State.drive_of_rst_false hr⟩

/-- At most `n` edges that take no time pass before a legal state whose edge takes a cycle. -/
def EndsWithin (clkHz latency n : Nat) (s : State) : Prop :=
  ∃ u, settle clkHz latency n s = .next u ∧ u.edgeCycles = 1 ∧ u.Legal

theorem endsWithin_of_cycle {clkHz latency n : Nat} {s : State} (hs : s.Legal) (h : s.edgeCycles = 1) :
    EndsWithin clkHz latency n s :=
  ⟨s, settle_done clkHz latency n h, h, hs⟩

/-- An instant is one edge longer from the state before, which need be shown only where no reset comes next. -/
theorem endsWithin_succ {clkHz latency n : Nat} {s : State} (hs : s.Legal)
    (h : ∀ t, s.edgeCycles = 0 → timedEdgeWith clkHz latency s = .next t → t.Legal → t.rst = false →
      EndsWithin clkHz latency n t) : EndsWithin clkHz latency (n + 1) s := by
  by_cases h0 : s.edgeCycles = 0
  · obtain ⟨t, ht, htl, -⟩ := timedEdge_legal clkHz latency hs
    rw [EndsWithin, settle_step clkHz latency n h0 ht]
    cases hr : t.rst with
    | true => exact endsWithin_of_cycle htl (edgeCycles_of_rst hr)
    | false => exact h t h0 ht htl hr
  · exact endsWithin_of_cycle hs (edgeCycles_eq_one h0)

/-- The segment just emitted has its time loaded, so its first edge takes a cycle. -/
theorem edgeCycles_after_emission {clkHz : Nat} {s u : State} {g : Segment} {l : List Stimulus} (hc : 0 < clkHz)
    (hg : g.Timed) (htr : u.trace = s.trace ++ [g]) (hb : u.busy = true) :
    ({ s.loadRemain clkHz u with inputs := l } : State).edgeCycles = 1 := by
  refine edgeCycles_of_remain hb ?_
  show 0 < cyclesOf clkHz (newDuration s u)
  rw [newDuration_append htr]
  exact cyclesOf_pos hc hg.1

/-- Where the sequencer is about to emit a segment, that `SeqStep` is the last edge of the instant. -/
theorem endsWithin_one_of_segment_due {clkHz latency n : Nat} {s : State} {e : Element} (hc : 0 < clkHz) (hs : s.Legal)
    (hb : s.busy = true) (he : progRom s.proto s.step = some e) (hf : e ≠ .finish)
    (henc : ∀ k, e = .enc k → s.bitIdx.toNat < (s.slotCnt k).toNat) : EndsWithin clkHz latency (n + 1) s := by
  refine endsWithin_succ hs fun t h0 ht htl hr => ?_
  obtain ⟨hidle, -⟩ | ⟨-, u, hu, rfl⟩ := instantEdge_cases h0 ht hr
  · simp [hb] at hidle
  obtain ⟨g, hg, htr, -, hbu⟩ | ⟨k, hk, hge, -⟩ | ⟨hfin, -⟩ := seqStep_segment_cases hu
  · exact endsWithin_of_cycle htl (edgeCycles_after_emission hc hg htr (hbu.trans hb))
  · have hlt := henc k (Option.some.inj (he.symm.trans hk))
    omega
  · exact absurd (Option.some.inj (he.symm.trans hfin)) hf

theorem progRom_start (p : Protocol) : progRom p 0#4 = some (.mark 8992) := by cases p <;> rfl

/-- From an idle core: an acceptance, and the first `SeqStep`. -/
theorem endsWithin_two_of_idle {clkHz latency n : Nat} {s : State} (hc : 0 < clkHz) (hs : s.Legal)
    (hb : s.busy = false) : EndsWithin clkHz latency (n + 2) s := by
  refine endsWithin_succ hs fun t h0 ht htl hr => ?_
  obtain ⟨-, i, u, hu, rfl⟩ | ⟨hbusy, -⟩ := instantEdge_cases h0 ht hr
  · obtain ⟨p, w, -, rfl⟩ := exec_eq_next hu
    exact endsWithin_one_of_segment_due (e := .mark 8992) hc htl rfl (progRom_start p.proto) (by simp) (by simp)
  · simp [hb] at hbusy

theorem State.FrameOk.counts_pos {s : State} (h : s.FrameOk) (k : Slot) : 0 < (s.slotCnt k).toNat := by
  have h0 := h.count0
  have h1 := h.count1
  cases k <;> cases hp : s.proto <;> simp_all [State.slotCnt, protocolCount]

/-- At the start of the element after an `ENC` element, the sequencer is about to emit a segment. -/
theorem endsWithin_one_after_enc {clkHz latency n : Nat} {s t : State} {k : Slot} (hc : 0 < clkHz) (ht : t.Legal)
    (hb : t.busy = true) (hk : progRom s.proto s.step = some (.enc k)) (hp : t.proto = s.proto)
    (hstep : t.step = s.step + 1#4) (hbit : t.bitIdx = 0#6) : EndsWithin clkHz latency (n + 1) t := by
  obtain ⟨e, he⟩ := (ht.frame hb).position.exists_element
  refine endsWithin_one_of_segment_due hc ht hb he ?_ fun j _ => ?_
  · rintro rfl
    rw [hp, hstep] at he
    exact progRom_after_enc hk he
  · rw [hbit]
    exact (ht.frame hb).counts_pos j

/-- Three edges at most take no time: `END`, an acceptance and the first `SeqStep`. -/
theorem endsWithin_three {clkHz latency : Nat} {s : State} (hc : 0 < clkHz) (hs : s.Legal) :
    EndsWithin clkHz latency 3 s := by
  cases hb : s.busy with
  | false => exact endsWithin_two_of_idle hc hs hb
  | true =>
    refine endsWithin_succ hs fun t h0 ht htl hr => ?_
    obtain ⟨hidle, -⟩ | ⟨-, u, hu, rfl⟩ := instantEdge_cases h0 ht hr
    · simp [hb] at hidle
    obtain ⟨g, hg, htr, -, hbu⟩ | ⟨k, hk, -, rfl⟩ | ⟨-, rfl⟩ := seqStep_segment_cases hu
    · exact endsWithin_of_cycle htl (edgeCycles_after_emission hc hg htr (hbu.trans hb))
    · exact endsWithin_one_after_enc hc htl hb hk rfl rfl rfl
    · exact endsWithin_two_of_idle hc htl rfl

/-- Settles O56: an edge differs from the segment-level step by its counters, and the edges of an instant are counted. -/
theorem cycleKeepsLegal : Obligations.CycleKeepsLegal := by
  intro clkHz latency s hc hs
  obtain ⟨t, ht, htl, hsend⟩ := timedEdge_legal clkHz latency hs
  obtain ⟨u, hu, hu1, hul⟩ := endsWithin_three (latency := latency) hc hs
  exact ⟨⟨t, ht, htl, hsend, timedEdge_remainFits ht⟩, u, hu, hu1, hul, hul.timeOk hu1⟩

end Sys2Proof.Machine

/-! The waveform of a request in time (40_pulse_generator.md R84): what a state has still to show on the line, what one edge
takes of it, and the run of a frame from its acceptance to its end. -/

namespace Sys2Proof

/-- The segment of `d` clock cycles during which the line has the level `b`. -/
def Segment.ofLevel (b : Bool) (d : Nat) : Segment := if b then .mark d else .space d

@[simp] theorem Segment.ofLevel_level (b : Bool) (d : Nat) : (Segment.ofLevel b d).level = b := by cases b <;> rfl

@[simp] theorem Segment.ofLevel_duration (b : Bool) (d : Nat) : (Segment.ofLevel b d).duration = d := by
  cases b <;> rfl

theorem levelAt_cons (g : Segment) (l : List Segment) (k : Nat) :
    levelAt (g :: l) k = if k < g.duration then g.level else levelAt l (k - g.duration) := rfl

/-- Only the level and the duration of a segment show on the line. -/
theorem levelAt_ofLevel_cons (g : Segment) (l : List Segment) :
    levelAt (.ofLevel g.level g.duration :: l) = levelAt (g :: l) := by
  funext k; simp [levelAt_cons]

theorem levelAt_ofLevel_zero (b : Bool) (l : List Segment) : levelAt (.ofLevel b 0 :: l) = levelAt l := by
  funext k; simp [levelAt_cons]

/-- The released line shows what an idle line does (40_pulse_generator.md R82). -/
theorem levelAt_release : levelAt [.release] = levelAt [] := by
  funext k; exact ite_self _

/-- One cycle later, the segment in progress is one cycle shorter. -/
theorem levelAt_ofLevel_succ (b : Bool) (d : Nat) (l : List Segment) (k : Nat) :
    levelAt (.ofLevel b (d + 1) :: l) (k + 1) = levelAt (.ofLevel b d :: l) k := by
  simp [levelAt_cons]

end Sys2Proof

namespace Sys2Proof.Machine

/-! ### What is still to be shown on the line -/

/-- What a frame in progress still shows on the line, in clock cycles: the level it has now for the time that is being
counted down, and then the segments still to be emitted (10_state.md R33). -/
def State.waveform (clkHz : Nat) (s : State) : List Segment :=
  if s.busy then .ofLevel s.irGate (s.latencyLeft + s.remain) :: s.pending.map (Segment.inCycles clkHz) else []

theorem State.waveform_of_busy {clkHz : Nat} {s : State} (hb : s.busy = true) :
    s.waveform clkHz = .ofLevel s.irGate (s.latencyLeft + s.remain) :: s.pending.map (Segment.inCycles clkHz) :=
  if_pos hb

theorem State.waveform_of_idle {clkHz : Nat} {s : State} (hb : s.busy = false) : s.waveform clkHz = [] := by
  simp [State.waveform, hb]

/-- The edges that the frame in progress still takes: one per sequencer step and one per clock cycle. -/
def State.edgesLeft (clkHz : Nat) (s : State) : Nat := s.stepsLeft + totalDuration (s.waveform clkHz)

theorem State.busy_of_edgesLeft_pos {clkHz : Nat} {s : State} (h : 0 < s.edgesLeft clkHz) : s.busy = true := by
  by_contra hb
  have hb := Bool.eq_false_iff.2 hb
  rw [State.edgesLeft, State.stepsLeft_of_idle hb, State.waveform_of_idle hb] at h
  exact Nat.lt_irrefl 0 h

/-! ### One edge of a frame in progress -/

/-- What one edge of a frame in progress does to what is left of it: a clock cycle is taken from the waveform, or a
sequencer step from the steps left; the request's temperature and output stay. -/
structure TimedAdvance (clkHz : Nat) (s t : State) : Prop where
  temp : t.temp = s.temp
  output : t.trace ++ t.pending = s.trace ++ s.pending
  stepsLeft : t.stepsLeft + 1 = s.stepsLeft + s.edgeCycles
  time : totalDuration (t.waveform clkHz) + s.edgeCycles = totalDuration (s.waveform clkHz)
  line : ∀ k, levelAt (t.waveform clkHz) k = levelAt (s.waveform clkHz) (k + s.edgeCycles)

/-- A counting edge: what is being counted down is one cycle shorter, and nothing else is different. -/
theorem timedAdvance_of_count {clkHz r l : Nat} {s : State} (hb : s.busy = true) (h1 : s.edgeCycles = 1)
    (hcount : l + r + 1 = s.latencyLeft + s.remain) :
    TimedAdvance clkHz s { s with latencyLeft := l, remain := r } := by
  have hs := State.waveform_of_busy (clkHz := clkHz) hb
  have ht : ({ s with latencyLeft := l, remain := r } : State).waveform clkHz =
      .ofLevel s.irGate (l + r) :: s.pending.map (Segment.inCycles clkHz) := State.waveform_of_busy hb
  rw [← hcount] at hs
  refine ⟨rfl, rfl, by rw [h1]; rfl, ?_, fun k => ?_⟩
  · rw [hs, ht, h1, totalDuration_cons, totalDuration_cons, Segment.ofLevel_duration, Segment.ofLevel_duration]
    omega
  · rw [hs, ht, h1, levelAt_ofLevel_succ]

theorem seqStep_latencyLeft {s t : State} (h : seqStep s = .next t) : t.latencyLeft = s.latencyLeft := by
  obtain ⟨d, -, rfl⟩ | ⟨d, -, rfl⟩ | ⟨k, -, hk⟩ | ⟨-, rfl⟩ := seqStep_cases h
  · rfl
  · rfl
  · obtain ⟨-, ⟨-, -, rfl⟩ | ⟨-, -, rfl⟩ | ⟨-, rfl⟩⟩ := serStep_cases hk
    · rfl
    · rfl
    · rfl
  · rfl

/-- The segment that a sequencer step emits is the first one that was pending. -/
theorem pending_of_emission {s t : State} {g : Segment} (hout : t.trace ++ t.pending = s.trace ++ s.pending)
    (htr : t.trace = s.trace ++ [g]) : s.pending = g :: t.pending := by
  rw [htr, List.append_assoc] at hout
  exact (List.append_cancel_left hout).symm

/-- A `SeqStep` shows on the line what was pending: the segment it emits is the one whose time it loads. -/
theorem waveform_after_seqStep {clkHz : Nat} {s u : State} (h : seqStep s = .next u) (hb : s.busy = true)
    (hpos : s.PositionOk) (hl : s.latencyLeft = 0) (hr : s.remain = 0) :
    levelAt ((s.loadRemain clkHz u).waveform clkHz) = levelAt (s.waveform clkHz) ∧
      totalDuration ((s.loadRemain clkHz u).waveform clkHz) = totalDuration (s.waveform clkHz) := by
  have hs : s.waveform clkHz = .ofLevel s.irGate 0 :: s.pending.map (Segment.inCycles clkHz) := by
    rw [State.waveform_of_busy hb, hl, hr]
  have hu (hbu : u.busy = true) : (s.loadRemain clkHz u).waveform clkHz =
      .ofLevel u.irGate (cyclesOf clkHz (newDuration s u)) :: u.pending.map (Segment.inCycles clkHz) := by
    have hload := State.waveform_of_busy (clkHz := clkHz) (s := s.loadRemain clkHz u) hbu
    rw [hload, State.loadRemain_latencyLeft, seqStep_latencyLeft h, hl, Nat.zero_add]
    rfl
  obtain ⟨hout, -⟩ := seqStep_conserves h hb hpos
  obtain ⟨g, -, htr, hgate, hbu⟩ | ⟨k, -, -, rfl⟩ | ⟨-, rfl⟩ := seqStep_segment_cases h
  · rw [hs, hu (hbu.trans hb), newDuration_append htr, hgate, pending_of_emission hout htr, List.map_cons,
      levelAt_ofLevel_zero, ← Segment.inCycles_level clkHz g, ← Segment.inCycles_duration, levelAt_ofLevel_cons]
    simp
  · have hpend : s.endEnc.pending = s.pending := List.append_cancel_left hout
    rw [hs, hu hb, newDuration_silent s.endEnc_trace, hpend, cyclesOf_zero]
    exact ⟨rfl, rfl⟩
  · have hidle : (s.loadRemain clkHz s.endFrame).waveform clkHz = [] := State.waveform_of_idle rfl
    rw [hs, hidle, pending_of_emission hout s.endFrame_trace,
      State.pending_of_idle s.endFrame_busy, levelAt_ofLevel_zero, totalDuration_cons, Segment.ofLevel_duration]
    exact ⟨levelAt_release.symm, rfl⟩

theorem timedAdvance_of_seqStep {clkHz : Nat} {s u : State} (h : seqStep s = .next u) (hb : s.busy = true)
    (hpos : s.PositionOk) (h0 : s.edgeCycles = 0) (hl : s.latencyLeft = 0) (hr : s.remain = 0) :
    TimedAdvance clkHz s (s.loadRemain clkHz u) := by
  obtain ⟨hline, htime⟩ := waveform_after_seqStep (clkHz := clkHz) h hb hpos hl hr
  obtain ⟨htemp, -⟩ := seqStep_frame h
  obtain ⟨hout, -⟩ := seqStep_conserves h hb hpos
  have hsteps : (s.loadRemain clkHz u).stepsLeft + 1 = s.stepsLeft := (seqStep_stepsLeft h hb hpos :)
  exact ⟨htemp, hout, by rw [h0, hsteps, Nat.add_zero], by rw [h0, htime, Nat.add_zero],
    fun k => by rw [h0, hline, Nat.add_zero]⟩

/-- Without reset, the edge of a busy core takes a cycle exactly where something is being counted down. -/
theorem edgeCycles_of_busy {s : State} (hb : s.busy = true) (hr : s.rst = false) :
    s.edgeCycles = if 0 < s.latencyLeft ∨ 0 < s.remain then 1 else 0 := by
  simp only [State.edgeCycles, edgeEvent_sequence.2 ⟨hr, hb⟩]

/-- Without reset, the sequencer of a legal busy core proceeds, which advances its frame in time. -/
theorem proceed_timedAdvance (clkHz : Nat) {s : State} (hs : s.Legal) (hb : s.busy = true) (hr : s.rst = false) :
    ∃ t, proceed clkHz s = .next t ∧ TimedAdvance clkHz s t ∧ t.inputs = s.inputs := by
  have hcycles := edgeCycles_of_busy hb hr
  rcases Nat.eq_zero_or_pos s.latencyLeft with hl | hl
  · rcases Nat.eq_zero_or_pos s.remain with hrem | hrem
    · have hf := hs.frame hb
      obtain ⟨u, hu⟩ := seqStep_answers hf.position hf.counts
      obtain ⟨-, -, -, -, hin⟩ := seqStep_frame hu
      refine ⟨s.loadRemain clkHz u, by rw [proceed_of_expired hl hrem, hu, mapNext_next],
        timedAdvance_of_seqStep hu hb hf.position (by simp [hcycles, hl, hrem]) hl hrem, hin⟩
    · exact ⟨_, proceed_of_remain hl hrem,
        timedAdvance_of_count (l := s.latencyLeft) hb (by simp [hcycles, hrem]) (by omega), rfl⟩
  · exact ⟨_, proceed_of_latency hl,
      timedAdvance_of_count (r := s.remain) hb (by simp [hcycles, hl]) (by omega), rfl⟩

/-- Without reset, an edge of a legal busy core advances its frame in time. -/
theorem timedEdge_advance (clkHz latency : Nat) {s : State} (hs : s.Legal) (hb : s.busy = true)
    (hn : NoReset s.inputs) :
    ∃ t, timedEdgeWith clkHz latency s = .next t ∧ t.Legal ∧ NoReset t.inputs ∧ TimedAdvance clkHz s t := by
  have hr := hn.rst
  obtain ⟨u, hu, hadv, hin⟩ := proceed_timedAdvance clkHz hs hb hr
  have hedge : timedEdgeWith clkHz latency s = .next { u with inputs := heldInputs s.inputs } := by
    simp only [timedEdgeWith, edgeEvent_sequence.2 ⟨hr, hb⟩, hu, mapNext_next, State.afterEdge, hin,
      State.drive_quiet u hn.held]
  obtain ⟨t, ht, htl, -⟩ := timedEdge_legal clkHz latency hs
  obtain rfl : t = { u with inputs := heldInputs s.inputs } := by simpa [hedge] using ht.symm
  exact ⟨_, hedge, htl, hn.held, hadv.temp, hadv.output, hadv.stepsLeft, hadv.time, hadv.line⟩

theorem TimedAdvance.edgesLeft {clkHz : Nat} {s t : State} (h : TimedAdvance clkHz s t) :
    t.edgesLeft clkHz + 1 = s.edgesLeft clkHz := by
  have hsteps := h.stepsLeft
  have htime := h.time
  simp only [State.edgesLeft]
  omega

/-! ### The cycles of a frame -/

/-- An instant that has ended has ended whatever number of edges it might still take. -/
theorem settle_succ {clkHz latency n : Nat} {s u : State} (h : settle clkHz latency n s = .next u)
    (hu : u.edgeCycles = 1) : settle clkHz latency (n + 1) s = .next u := by
  induction n generalizing s with
  | zero =>
    cases h
    exact settle_done clkHz latency 1 hu
  | succ n ih =>
    by_cases h0 : s.edgeCycles = 0
    · rw [settle, if_pos h0] at h ⊢
      obtain ⟨v, hv, hvu⟩ := andThen_eq_next h
      rw [hv, andThen_next, ih hvu]
    · rw [settle_done clkHz latency _ (edgeCycles_eq_one h0)] at h ⊢
      exact h

/-- An edge that takes no time brings no later cycle nearer. -/
theorem duringCycle_of_instant {clkHz latency : Nat} (k : Nat) {s t : State} (hc : 0 < clkHz) (hs : s.Legal)
    (h0 : s.edgeCycles = 0) (ht : timedEdgeWith clkHz latency s = .next t) :
    duringCycle clkHz latency k s = duringCycle clkHz latency k t := by
  obtain ⟨u, hu, hu1, -⟩ := endsWithin_three (latency := latency) hc hs
  have hut : settle clkHz latency 3 t = .next u := settle_succ (settle_step clkHz latency 2 h0 ht ▸ hu) hu1
  cases k with
  | zero => rw [duringCycle, duringCycle, hu, hut]
  | succ k => rw [duringCycle, duringCycle, hu, hut]

/-- In a cycle that passes, the line has the level that the waveform begins with. -/
theorem irGate_eq_levelAt_zero {clkHz : Nat} {s : State} (hs : s.Legal) (hb : s.busy = true)
    (h1 : s.edgeCycles = 1) : s.irGate = levelAt (s.waveform clkHz) 0 := by
  have hleft : 0 < s.latencyLeft + s.remain := by
    have := hs.timeOk h1 hb
    omega
  rw [State.waveform_of_busy hb, levelAt_cons, Segment.ofLevel_duration, if_pos hleft, Segment.ofLevel_level]

/-- While a frame's waveform lasts, it is on the line, and the core is busy: by induction on the edges left. -/
theorem duringCycle_waveform {clkHz latency n k : Nat} {s : State} (hc : 0 < clkHz) (hs : s.Legal)
    (hn : NoReset s.inputs) (hleft : s.edgesLeft clkHz = n) (hk : k < totalDuration (s.waveform clkHz)) :
    ∃ t, duringCycle clkHz latency k s = .next t ∧ t.irGate = levelAt (s.waveform clkHz) k ∧ t.busy = true ∧
      t.temp = s.temp := by
  induction n generalizing s k with
  | zero =>
    rw [State.edgesLeft] at hleft
    omega
  | succ n ih =>
    have hb : s.busy = true := State.busy_of_edgesLeft_pos (clkHz := clkHz) (by omega)
    obtain ⟨t, ht, htl, htn, hadv⟩ := timedEdge_advance clkHz latency hs hb hn
    have htleft : t.edgesLeft clkHz = n := by have := hadv.edgesLeft; omega
    have htime := hadv.time
    by_cases h0 : s.edgeCycles = 0
    · rw [h0] at htime
      obtain ⟨v, hv, hgate, hbusy, htemp⟩ := ih htl htn htleft (k := k) (by omega)
      refine ⟨v, ?_, ?_, hbusy, htemp.trans hadv.temp⟩
      · rw [duringCycle_of_instant k hc hs h0 ht, hv]
      · rw [hgate, hadv.line, h0, Nat.add_zero]
    · have h1 := edgeCycles_eq_one h0
      cases k with
      | zero => exact ⟨s, settle_done clkHz latency 3 h1, irGate_eq_levelAt_zero hs hb h1, hb, rfl⟩
      | succ k =>
        obtain ⟨v, hv, hgate, hbusy, htemp⟩ := ih htl htn htleft (k := k) (by omega)
        refine ⟨v, ?_, ?_, hbusy, htemp.trans hadv.temp⟩
        · rw [duringCycle_succ clkHz latency k h1 ht, hv]
        · rw [hgate, hadv.line, h1]

/-- The cycles of one more edge. -/
theorem cyclesOfEdges_succ {clkHz latency n : Nat} {s t : State} (h : timedEdgeWith clkHz latency s = .next t) :
    cyclesOfEdges clkHz latency (n + 1) s = s.edgeCycles + cyclesOfEdges clkHz latency n t := by
  simp only [cyclesOfEdges, h]

theorem iterate_succ {f : State → Result} {s t : State} (n : Nat) (h : f s = .next t) :
    iterate f (n + 1) s = iterate f n t := by
  simp only [iterate, h, andThen_next]

/-- After as many edges as it has left, a frame has taken the time of its waveform and has been emitted whole. -/
theorem iterate_timedEdge_frame {clkHz latency n : Nat} {s : State} (hs : s.Legal) (hn : NoReset s.inputs)
    (hleft : s.edgesLeft clkHz = n) :
    ∃ t, iterate (timedEdgeWith clkHz latency) n s = .next t ∧
      cyclesOfEdges clkHz latency n s = totalDuration (s.waveform clkHz) ∧ t.Legal ∧ t.busy = false ∧
      t.trace = s.trace ++ s.pending ∧ t.temp = s.temp := by
  induction n generalizing s with
  | zero =>
    have hb : s.busy = false := by
      refine Bool.eq_false_iff.2 fun hb => ?_
      have := (State.busy_iff_stepsLeft_pos hs).1 hb
      rw [State.edgesLeft] at hleft
      omega
    refine ⟨s, rfl, ?_, hs, hb, by rw [State.pending_of_idle hb, List.append_nil], rfl⟩
    rw [State.waveform_of_idle hb]
    rfl
  | succ n ih =>
    have hb : s.busy = true := State.busy_of_edgesLeft_pos (clkHz := clkHz) (by omega)
    obtain ⟨t, ht, htl, htn, hadv⟩ := timedEdge_advance clkHz latency hs hb hn
    obtain ⟨u, hu, hcycles, hul, hidle, htrace, htemp⟩ := ih htl htn (by have := hadv.edgesLeft; omega)
    refine ⟨u, by rw [iterate_succ n ht, hu], ?_, hul, hidle, htrace.trans hadv.output, htemp.trans hadv.temp⟩
    rw [cyclesOfEdges_succ ht, hcycles, Nat.add_comm, hadv.time]

/-! ### A request in time -/

theorem edgeCycles_of_accept {s : State} {i : Instr} (he : edgeEvent s = .accept i) : s.edgeCycles = 0 :=
  edgeCycles_eq_zero.2 (.inl ⟨i, he⟩)

/-- Without reset, the accepting edge of a legal core leaves the latency, in the dark, and then the request's whole frame. -/
theorem timedEdge_accept (clkHz latency : Nat) {s : State} {i : Instr} (hs : s.Legal) (hn : NoReset s.inputs)
    (he : edgeEvent s = .accept i) :
    ∃ u, timedEdgeWith clkHz latency s = .next u ∧ u.Legal ∧ NoReset u.inputs ∧ u.trace = [] ∧
      u.pending = segs i s.temp ∧ u.temp = tempAfter s.temp i ∧ u.stepsLeft = requestSteps i ∧
      u.waveform clkHz = .space latency :: (segs i s.temp).map (Segment.inCycles clkHz) := by
  obtain ⟨x, hx⟩ := exec_answers i hs
  obtain ⟨hbusy, htrace, hpend, htemp, hin⟩ := exec_pending hx
  have hgate : x.irGate = false := by
    obtain ⟨-, hidle, -⟩ := edgeEvent_accept.1 he
    obtain ⟨p, t, -, rfl⟩ := exec_eq_next hx
    exact hs.idleDark hidle
  have hedge : timedEdgeWith clkHz latency s = .next { x.startLatency latency with inputs := s.inputs.tail } := by
    have hxin : (x.startLatency latency).inputs = s.inputs := hin
    simp only [timedEdgeWith, he, hx, mapNext_next, State.afterAccept, hxin, State.drive_quiet _ hn.tail]
  obtain ⟨u, hu, hul, -⟩ := timedEdge_legal clkHz latency hs
  obtain rfl : u = { x.startLatency latency with inputs := s.inputs.tail } := by simpa [hedge] using hu.symm
  have hwave := State.waveform_of_busy (clkHz := clkHz) (s := x.startLatency latency) hbusy
  have hdark : (x.startLatency latency).irGate = false := hgate
  rw [hdark] at hwave
  rw [← hpend]
  exact ⟨_, hedge, hul, hn.tail, htrace, rfl, htemp, (exec_stepsLeft hx :), hwave⟩

/-- Settles O58: acceptance starts the waveform of the latency and the frame, which is then shown to its end. -/
theorem cycleWaveform : Obligations.CycleWaveform := by
  intro clkHz latency s i hc hs hn he
  obtain ⟨u, hu, hul, hun, htrace, hpend, htemp, hsteps, hwave⟩ := timedEdge_accept clkHz latency hs hn he
  have h0 := edgeCycles_of_accept he
  have htime : totalDuration (u.waveform clkHz) = latency + frameCycles clkHz (segs i s.temp) := by rw [hwave]; rfl
  have hline (k : Nat) : levelAt (u.waveform clkHz) k =
      gateAt latency ((segs i s.temp).map (Segment.inCycles clkHz)) k := by rw [hwave]; rfl
  refine ⟨fun k hk => ?_, ?_⟩
  · obtain ⟨t, ht, hgate, hbusy, htt⟩ := duringCycle_waveform (latency := latency) hc hul hun rfl (htime ▸ hk)
    have hbusyAt : busyAt latency ((segs i s.temp).map (Segment.inCycles clkHz)) k = true := decide_eq_true hk
    exact ⟨t, (duringCycle_of_instant k hc hs h0 hu).trans ht, hgate.trans (hline k), hbusy.trans hbusyAt.symm,
      htt.trans htemp⟩
  · have hedges : u.edgesLeft clkHz = requestSteps i + latency + frameCycles clkHz (segs i s.temp) := by
      rw [State.edgesLeft, hsteps, htime, Nat.add_assoc]
    obtain ⟨t, ht, hcycles, htl, hidle, hout, htt⟩ := iterate_timedEdge_frame (latency := latency) hul hun hedges
    have hcount : 1 + requestSteps i + latency + frameCycles clkHz (segs i s.temp) =
        requestSteps i + latency + frameCycles clkHz (segs i s.temp) + 1 := by omega
    rw [hcount]
    refine ⟨t, (iterate_succ _ hu).trans ht, ?_, htl.idleDark hidle, hidle, by simp [State.reqReady, hidle], ?_,
      htt.trans htemp⟩
    · rw [cyclesOfEdges_succ hu, h0, hcycles, htime, Nat.zero_add]
    · rw [hout, htrace, hpend, List.nil_append]

end Sys2Proof.Machine

/-! The serializer: the times of ENCODE and the bits it looks at, one serializer step in each of its cases, a whole `ENC`
element, and the counts that the serializer accepts (41_bitstream_serializer.md R90 to R97). -/

namespace Sys2Proof

/-! ### ENCODE sees the low bits only (41_bitstream_serializer.md R96, R97) -/

theorem bit_mod_two_pow {v n i : Nat} (h : i < n) : bit (v % 2 ^ n) i = bit v i := by
  simp [bit, Nat.testBit_mod_two_pow, h]

theorem popcount_mod_two_pow (v n : Nat) : popcount (v % 2 ^ n) n = popcount v n :=
  congrArg List.length (List.filter_congr fun _ hi => bit_mod_two_pow (List.mem_range.1 hi))

theorem encodeBits_mod_two_pow (v n : Nat) : encodeBits (v % 2 ^ n) n = encodeBits v n :=
  List.flatMap_congr fun _ hi => congrArg symbol (bit_mod_two_pow (List.mem_range.1 hi))

/-- Settles O8: the first symbol of ENCODE is the lowest bit, and the receiver puts it below the rest. -/
theorem encodeDecodeRoundTrip : Obligations.EncodeDecodeRoundTrip := decodeSymbols_encodeBits

/-- Settles O9: the receiver reads the low bits back from the output, and the output is that of the low bits alone. -/
theorem encodeSeesLowBitsOnly : Obligations.EncodeSeesLowBitsOnly := by
  intro v w n
  constructor
  · intro h
    have hread : some (v % 2 ^ n) = some (w % 2 ^ n) := by
      rw [← decodeSymbols_encodeBits v n, h, decodeSymbols_encodeBits]
    exact Option.some.inj hread
  · intro h
    rw [← encodeBits_mod_two_pow v n, h, encodeBits_mod_two_pow]

/-! ### The times of ENCODE (41_bitstream_serializer.md R95) -/

theorem totalDuration_encodeBits (v n : Nat) : totalDuration (encodeBits v n) = 1120 * n + 1120 * popcount v n := by
  induction n with
  | zero => rfl
  | succ n ih =>
    rw [encodeBits_succ, totalDuration_append, ih, totalDuration_symbol, popcount_succ]
    omega

theorem markTime_symbol (b : Bool) : markTime (symbol b) = 560 := by cases b <;> rfl

theorem markTime_encodeBits (v n : Nat) : markTime (encodeBits v n) = 560 * n := by
  induction n with
  | zero => rfl
  | succ n ih => rw [encodeBits_succ, markTime_append, ih, markTime_symbol, Nat.mul_succ]

/-- Settles O7: each bit adds one symbol to ENCODE, and the bits above the count add nothing to the count of ones. -/
theorem encodeLengthAndDuration : Obligations.EncodeLengthAndDuration := fun v n =>
  ⟨encodeBits_length v n, by rw [popcount_mod_two_pow, totalDuration_encodeBits], markTime_encodeBits v n⟩

end Sys2Proof

namespace Sys2Proof.Machine

/-! ### One serializer step (41_bitstream_serializer.md R91, R94) -/

theorem serStep_refused {k : Slot} {s : State} (hc : 35 < (s.slotCnt k).toNat) :
    serStep k s = .refused .countAbove35 := if_pos hc

theorem serStep_sendMark {k : Slot} {s : State} (hc : (s.slotCnt k).toNat ≤ 35)
    (hlt : s.bitIdx.toNat < (s.slotCnt k).toNat) (hh : s.half = false) : serStep k s = .next s.sendMark := by
  simp [serStep, Nat.not_lt.2 hc, hlt, hh]

theorem serStep_sendSpace {k : Slot} {s : State} (hc : (s.slotCnt k).toNat ≤ 35)
    (hlt : s.bitIdx.toNat < (s.slotCnt k).toNat) (hh : s.half = true) : serStep k s = .next (s.sendSpace k) := by
  simp [serStep, Nat.not_lt.2 hc, hlt, hh]

theorem serStep_endEnc {k : Slot} {s : State} (hc : (s.slotCnt k).toNat ≤ 35)
    (hge : (s.slotCnt k).toNat ≤ s.bitIdx.toNat) : serStep k s = .next s.endEnc := by
  simp [serStep, Nat.not_lt.2 hc, Nat.not_lt.2 hge]

/-- Below a count up to 35, `bit_idx + 1` does not wrap. -/
theorem bitIdx_succ_toNat {k : Slot} {s : State} (hc : (s.slotCnt k).toNat ≤ 35)
    (hlt : s.bitIdx.toNat < (s.slotCnt k).toNat) : (s.bitIdx + 1#6).toNat = s.bitIdx.toNat + 1 :=
  BitVec.toNat_add_of_lt (y := 1#6) (show s.bitIdx.toNat + 1 < 2 ^ 6 by omega)

/-- Settles O15: the three answers of the serializer, each with the registers it leaves. -/
theorem serializerStep : Obligations.SerializerStep := fun k s hc =>
  ⟨fun hlt hh => serStep_sendMark hc hlt hh,
    fun hlt hh => ⟨s.sendSpace k, serStep_sendSpace hc hlt hh, bitIdx_succ_toNat hc hlt, rfl⟩,
    fun hge => serStep_endEnc hc hge⟩

/-! ### A whole `ENC` element (41_bitstream_serializer.md R90, R92) -/

/-- The state after the rest of an `ENC` element, from the bit at `bit_idx` on: the symbols still due have been emitted, and
the last of them, if there is one, left the line dark. -/
def State.afterEnc (k : Slot) (s : State) : State :=
  { s with
    irGate := if (s.slotCnt k).toNat ≤ s.bitIdx.toNat then s.irGate else false
    step := s.step + 1#4
    bitIdx := 0#6
    half := false
    trace := s.trace ++ (encodeBits (s.slotVal k).toNat (s.slotCnt k).toNat).drop (2 * s.bitIdx.toNat) }

/-- With no bit left, the rest of the element is its last step, which emits nothing. -/
theorem State.afterEnc_of_done {k : Slot} {s : State} (hge : (s.slotCnt k).toNat ≤ s.bitIdx.toNat) :
    s.afterEnc k = s.endEnc := by
  have hdone : (encodeBits (s.slotVal k).toNat (s.slotCnt k).toNat).drop (2 * s.bitIdx.toNat) = [] :=
    List.drop_eq_nil_of_le (by rw [encodeBits_length]; omega)
  simp [State.afterEnc, State.endEnc, hge, hdone]

/-- The symbol of one bit, and then the rest of the element, is the rest of the element from that bit on. -/
theorem State.afterEnc_symbol {k : Slot} {s : State} (hc : (s.slotCnt k).toNat ≤ 35)
    (hlt : s.bitIdx.toNat < (s.slotCnt k).toNat) : (s.sendMark.sendSpace k).afterEnc k = s.afterEnc k := by
  have htrace : ((s.sendMark.sendSpace k).afterEnc k).trace = (s.afterEnc k).trace := by
    simp [State.afterEnc, encodeBits_drop hlt, bitIdx_succ_toNat hc hlt, Nat.mul_add]
  have hgate : ((s.sendMark.sendSpace k).afterEnc k).irGate = (s.afterEnc k).irGate := by
    simp [State.afterEnc, Nat.not_le.2 hlt]
  calc (s.sendMark.sendSpace k).afterEnc k
      = { s.afterEnc k with
          trace := ((s.sendMark.sendSpace k).afterEnc k).trace
          irGate := ((s.sendMark.sendSpace k).afterEnc k).irGate } := rfl
    _ = s.afterEnc k := by rw [htrace, hgate]

/-- With `m` bits left the serializer takes two steps per bit and one more, by induction on `m`. -/
theorem iterate_serStep {k : Slot} {m : Nat} {s : State} (hc : (s.slotCnt k).toNat ≤ 35) (hh : s.half = false)
    (hm : s.bitIdx.toNat + m = (s.slotCnt k).toNat) : iterate (serStep k) (2 * m + 1) s = .next (s.afterEnc k) := by
  induction m generalizing s with
  | zero =>
    have hge : (s.slotCnt k).toNat ≤ s.bitIdx.toNat := by omega
    rw [State.afterEnc_of_done hge]
    exact iterate_succ 0 (serStep_endEnc hc hge)
  | succ m ih =>
    have hlt : s.bitIdx.toNat < (s.slotCnt k).toNat := by omega
    have hmark : serStep k s = .next s.sendMark := serStep_sendMark hc hlt hh
    have hspace : serStep k s.sendMark = .next (s.sendMark.sendSpace k) :=
      serStep_sendSpace (by simpa using hc) (by simpa using hlt) rfl
    have hrest : (s.sendMark.sendSpace k).bitIdx.toNat + m = ((s.sendMark.sendSpace k).slotCnt k).toNat := by
      simp only [State.sendSpace_bitIdx, State.sendMark_bitIdx, State.slotCnt_sendSpace, State.slotCnt_sendMark,
        bitIdx_succ_toNat hc hlt]
      omega
    calc iterate (serStep k) (2 * (m + 1) + 1) s
        = iterate (serStep k) (2 * m + 1 + 1) s.sendMark := iterate_succ _ hmark
      _ = iterate (serStep k) (2 * m + 1) (s.sendMark.sendSpace k) := iterate_succ _ hspace
      _ = .next ((s.sendMark.sendSpace k).afterEnc k) := ih (by simpa using hc) rfl hrest
      _ = .next (s.afterEnc k) := by rw [State.afterEnc_symbol hc hlt]

/-- Settles O16: from the start of the element all of ENCODE is still due. -/
theorem encElementEmitsEncode : Obligations.EncElementEmitsEncode := by
  intro k s hc hi hh
  refine ⟨s.afterEnc k, iterate_serStep hc hh (by simp [hi]), by simp [State.afterEnc, hi], ?_⟩
  simp [State.afterEnc, hi, hh]

/-! ### The counts that requests load (41_bitstream_serializer.md R94) -/

theorem exec_slotCnt {i : Instr} {s t : State} (h : exec i s = .next t) (k : Slot) :
    t.slotCnt k = 16#6 ∨ t.slotCnt k = 31#6 ∨ t.slotCnt k = 35#6 := by
  obtain ⟨p, u, hl, rfl⟩ := exec_eq_next h
  obtain ⟨⟨-, h0, h1, -⟩ | ⟨-, h0, h1, -⟩, -⟩ := lookup_cases hl
  · cases k with
    | p0 => exact .inl h0
    | p1 => exact .inl h1
  · cases k with
    | p0 => exact .inr (.inr h0)
    | p1 => exact .inr (.inl h1)

/-- Settles O17: the serializer's first test refuses such a count, and a request loads its protocol's two counts. -/
theorem countsAboveThirtyFive : Obligations.CountsAboveThirtyFive :=
  ⟨fun _ _ => serStep_refused, fun _ _ _ => exec_slotCnt⟩

end Sys2Proof.Machine

/-! The AC framer and the run of both frame programs: the programs element by element, the segments and times of an AC
frame, what a sequencer step leaves alone, and a whole run (42_ac_framer.md R100 to R105, 43_nec_framer.md R110, R111,
R117). -/

namespace Sys2Proof

/-! ### The frame programs (42_ac_framer.md R100, 43_nec_framer.md R110) -/

/-- Settles O19: `PROG_ROM` read at each of the 16 values of `step`. -/
theorem framePrograms : Obligations.FramePrograms := ⟨rfl, rfl⟩

/-- The value of `step` at `END`. -/
def endStep : Protocol → StepIx
  | .nec => 13#4
  | .ac => 9#4

theorem progRom_eq_finish_iff {p : Protocol} {ix : StepIx} : progRom p ix = some .finish ↔ ix = endStep p := by
  cases p <;> decide +revert

/-! ### Marks and spaces of ENCODE (41_bitstream_serializer.md R90) -/

theorem encodeBits_filter_isMark (v n : Nat) :
    (encodeBits v n).filter Segment.isMark = List.replicate n (.mark symbolMark) := by
  induction n with
  | zero => rfl
  | succ n ih =>
    rw [encodeBits_succ, List.filter_append, ih, List.replicate_succ']
    rfl

theorem encodeBits_filter_isSpace_length (v n : Nat) : ((encodeBits v n).filter Segment.isSpace).length = n := by
  induction n with
  | zero => rfl
  | succ n ih =>
    rw [encodeBits_succ, List.filter_append, List.length_append, ih]
    rfl

@[simp] theorem markTime_nil : markTime [] = 0 := rfl
@[simp] theorem markTime_cons_mark (d : Nat) (l : List Segment) : markTime (.mark d :: l) = d + markTime l := rfl
@[simp] theorem markTime_cons_space (d : Nat) (l : List Segment) : markTime (.space d :: l) = markTime l := rfl

theorem popcount_le (v n : Nat) : popcount v n ≤ n :=
  (List.length_filter_le _ _).trans_eq List.length_range

/-! ### The segments of an AC frame (42_ac_framer.md R101, R103) -/

/-- The segments of an AC frame before the release. -/
def acSegments (a na b nb : Nat) : List Segment :=
  [.mark 8992, .space 4496] ++ encodeBits a na ++ [.mark 560, .space 20654, .mark 560, .space 1680] ++
    encodeBits b nb ++ [.mark 560]

theorem acFrame_eq_acSegments_append (a na b nb : Nat) : acFrame a na b nb = acSegments a na b nb ++ [.release] := by
  simp [acFrame, acSegments]

theorem acSegments_length (a na b nb : Nat) : (acSegments a na b nb).length = 7 + 2 * (na + nb) := by
  simp [acSegments]
  omega

theorem acSegments_filter_isMark_length (a na b nb : Nat) :
    ((acSegments a na b nb).filter Segment.isMark).length = 4 + (na + nb) := by
  simp [acSegments, encodeBits_filter_isMark, List.filter_cons, Segment.isMark]
  omega

theorem acSegments_filter_isSpace_length (a na b nb : Nat) :
    ((acSegments a na b nb).filter Segment.isSpace).length = 3 + (na + nb) := by
  simp [acSegments, encodeBits_filter_isSpace_length, List.filter_cons, Segment.isSpace]
  omega

theorem markTime_acSegments (a na b nb : Nat) : markTime (acSegments a na b nb) = 10672 + 560 * (na + nb) := by
  simp [acSegments, markTime_encodeBits]
  omega

theorem totalDuration_acSegments (a na b nb : Nat) :
    totalDuration (acSegments a na b nb) =
      37502 + 1120 * (na + nb) + 1120 * (popcount a na + popcount b nb) := by
  simp [acSegments, totalDuration_encodeBits, Segment.duration]
  omega

/-- Settles O12: the figures of an AC frame of any counts, at the counts 35 and 31; at most every bit sent is a one. -/
theorem acFrameShape : Obligations.AcFrameShape := by
  intro a b
  have htotal := totalDuration_acSegments a 35 b 31
  have ha := popcount_le a 35
  have hb := popcount_le b 31
  rw [popcount_mod_two_pow, popcount_mod_two_pow]
  exact ⟨acSegments a 35 b 31, acFrame_eq_acSegments_append a 35 b 31, acSegments_length a 35 b 31,
    acSegments_filter_isMark_length a 35 b 31, acSegments_filter_isSpace_length a 35 b 31,
    markTime_acSegments a 35 b 31, by omega, by omega, by omega⟩

end Sys2Proof

namespace Sys2Proof.Machine

/-! ### What a sequencer step leaves alone (42_ac_framer.md R105, 43_nec_framer.md R117) -/

/-- The registers that a sequencer step may write; every other field is that of the state before. -/
theorem seqStep_writes {s t : State} (h : seqStep s = .next t) :
    ∃ busy irGate step bitIdx half trace, t = { s with busy, irGate, step, bitIdx, half, trace } := by
  obtain ⟨d, -, rfl⟩ | ⟨d, -, rfl⟩ | ⟨k, -, hk⟩ | ⟨-, rfl⟩ := seqStep_cases h
  · exact ⟨_, _, _, _, _, _, rfl⟩
  · exact ⟨_, _, _, _, _, _, rfl⟩
  · obtain ⟨-, ⟨-, -, rfl⟩ | ⟨-, -, rfl⟩ | ⟨-, rfl⟩⟩ := serStep_cases hk
    · exact ⟨_, _, _, _, _, _, rfl⟩
    · exact ⟨_, _, _, _, _, _, rfl⟩
    · exact ⟨_, _, _, _, _, _, rfl⟩
  · exact ⟨_, _, _, _, _, _, rfl⟩

theorem serStep_temp (k : Slot) (s : State) (u : Temp) :
    serStep k { s with temp := u } = mapNext (fun t => { t with temp := u }) (serStep k s) := by
  have hcnt : ({ s with temp := u } : State).slotCnt k = s.slotCnt k := by cases k <;> rfl
  have hspace : ({ s with temp := u } : State).sendSpace k = { s.sendSpace k with temp := u } := by cases k <;> rfl
  rw [serStep, serStep, hcnt, hspace]
  split_ifs
  · rfl
  · rfl
  · rfl
  · rfl

theorem seqStep_temp (s : State) (u : Temp) :
    seqStep { s with temp := u } = mapNext (fun t => { t with temp := u }) (seqStep s) := by
  cases he : progRom s.proto s.step with
  | none => simp only [seqStep, he, mapNext]
  | some e =>
    rw [seqStep_at he, seqStep_at (s := { s with temp := u }) he]
    cases e with
    | enc k => exact serStep_temp k s u
    | mark d => rfl
    | space d => rfl
    | finish => rfl

/-- Settles O22: no element looks at the temperature, and the fields named are none of those that a step may write. -/
theorem framersIgnoreTemperature : Obligations.FramersIgnoreTemperature := fun s u =>
  ⟨seqStep_temp s u, fun t h => by
    obtain ⟨busy, irGate, step, bitIdx, half, trace, rfl⟩ := seqStep_writes h
    exact ⟨rfl, rfl, rfl, rfl, rfl, rfl, rfl, rfl, rfl⟩⟩

/-! ### The whole run of a frame program (42_ac_framer.md R101, 43_nec_framer.md R111) -/

/-- The state in which the frame in progress ends: what was pending has been emitted, and `step` is at `END`. -/
def State.afterFrame (s : State) : State :=
  { s with
    busy := false
    irGate := false
    step := endStep s.proto
    bitIdx := 0#6
    half := false
    trace := s.trace ++ s.pending }

/-- A sequencer step does not change where the frame ends. -/
theorem afterFrame_seqStep {s t : State} (h : seqStep s = .next t) (hb : s.busy = true) (hpos : s.PositionOk) :
    t.afterFrame = s.afterFrame := by
  obtain ⟨hout, -⟩ := seqStep_conserves h hb hpos
  obtain ⟨busy, irGate, step, bitIdx, half, trace, rfl⟩ := seqStep_writes h
  rw [State.afterFrame, hout, State.afterFrame]

/-- The frame ends with the `END` element's step. -/
theorem endFrame_afterFrame {s : State} (hpos : s.PositionOk) (he : progRom s.proto s.step = some .finish) :
    s.endFrame.afterFrame = s.endFrame := by
  obtain ⟨hi, hh⟩ := hpos.serializer_idle he (by simp)
  have hstep : s.step = endStep s.proto := progRom_eq_finish_iff.1 he
  simp [State.afterFrame, State.endFrame, State.release, State.emit, State.pending, hi, hh, hstep]

/-- From a legal position the steps left lead to the end of the frame, by induction on their number. -/
theorem iterate_seqStep_afterFrame {n : Nat} {s : State} (hb : s.busy = true) (hpos : s.PositionOk)
    (hc : ∀ k, (s.slotCnt k).toNat ≤ 35) (hn : s.stepsLeft = n) : iterate seqStep n s = .next s.afterFrame := by
  induction n generalizing s with
  | zero =>
    obtain ⟨t, ht⟩ := seqStep_answers hpos hc
    have := seqStep_stepsLeft ht hb hpos
    omega
  | succ n ih =>
    obtain ⟨t, ht⟩ := seqStep_answers hpos hc
    have hleft : t.stepsLeft = n := by have := seqStep_stepsLeft ht hb hpos; omega
    rw [iterate_succ n ht, ← afterFrame_seqStep ht hb hpos]
    obtain hkeep | ⟨he, rfl⟩ := seqStep_busy_cases ht
    · have hbusy : t.busy = true := hkeep.trans hb
      obtain ⟨-, hposOk⟩ := seqStep_conserves ht hb hpos
      obtain ⟨-, -, -, hcnt, -⟩ := seqStep_frame ht
      exact ih hbusy (hposOk hbusy) (fun k => hcnt k ▸ hc k) hleft
    · obtain rfl : 0 = n := (State.stepsLeft_of_idle s.endFrame_busy).symm.trans hleft
      rw [endFrame_afterFrame hpos he]
      rfl

theorem State.positionOk_start {s : State} (hstep : s.step = 0#4) (hi : s.bitIdx = 0#6) (hh : s.half = false) :
    s.PositionOk := by
  simp only [State.PositionOk, hstep, progRom_start]
  exact ⟨hi, hh⟩

/-- The payloads that a state holds, with its frame program. -/
def State.payloads (s : State) : Payloads := ⟨s.proto, s.p0Val, s.p0Cnt, s.p1Val, s.p1Cnt⟩

/-- The start of a frame program is the state in which its payloads have just been accepted. -/
theorem State.accept_payloads {s : State} (hb : s.busy = true) (hstep : s.step = 0#4) (hi : s.bitIdx = 0#6)
    (hh : s.half = false) (htr : s.trace = []) : s.accept s.payloads s.temp = s := by
  rw [State.accept, ← hb, ← hstep, ← hi, ← hh, ← htr]
  rfl

/-- At the start of a frame program the whole frame is pending. -/
theorem State.pending_accept (p : Payloads) (t : Temp) (s : State) : (s.accept p t).pending = frameOf p := by
  simp only [State.pending, State.accept_busy, State.accept_proto, frameOf]
  cases p.proto with
  | nec => simp [program, necProg, State.elementSegs, State.elementDone, necFrame, State.slotVal, State.slotCnt]
  | ac => simp [program, acProg, State.elementSegs, State.elementDone, acFrame, State.slotVal, State.slotCnt]

/-- Settles O21: from the start all steps of the frame are left, and the whole frame is pending. -/
theorem frameProgramEmitsItsFrame : Obligations.FrameProgramEmitsItsFrame := by
  intro s hb hstep hi hh htr h0 h1
  have hstart := State.accept_payloads hb hstep hi hh htr
  have hsteps : s.stepsLeft = frameSteps s.proto s.p0Cnt.toNat s.p1Cnt.toNat := by
    rw [← hstart, State.stepsLeft_accept]
    rfl
  have hpend : s.pending = frameOf s.payloads := by
    rw [← hstart, State.pending_accept]
    rfl
  have hcnt (k : Slot) : (s.slotCnt k).toNat ≤ 35 := by
    cases k with
    | p0 => exact h0
    | p1 => exact h1
  have hrun := iterate_seqStep_afterFrame hb (State.positionOk_start hstep hi hh) hcnt hsteps
  rw [hrun, State.afterFrame, hpend, htr, hi, hh]
  cases hp : s.proto with
  | nec => simp [endStep, frameOf, State.payloads, hp]
  | ac => simp [endStep, frameOf, State.payloads, hp]

end Sys2Proof.Machine

/-! The TV framer: the segments and times of a TV frame, and the TV requests, whose payloads do not depend on the
temperature (43_nec_framer.md R111, R116, R117; 44_command_lookup.md R122, R130 to R133). -/

namespace Sys2Proof

/-! ### The segments of a TV frame (43_nec_framer.md R111, R116) -/

/-- The segments of a TV frame before the release. -/
def necSegments (a na c nc : Nat) : List Segment :=
  [.mark 8992, .space 4496] ++ encodeBits a na ++ encodeBits c nc ++
    [.mark 560, .space 41425, .mark 8992, .space 2250, .mark 560, .space 96293, .mark 8992, .space 2250, .mark 562]

theorem necFrame_eq_necSegments_append (a na c nc : Nat) :
    necFrame a na c nc = necSegments a na c nc ++ [.release] := by
  simp [necFrame, necSegments]

theorem necSegments_length (a na c nc : Nat) : (necSegments a na c nc).length = 11 + 2 * (na + nc) := by
  simp [necSegments]
  omega

theorem necSegments_filter_isMark_length (a na c nc : Nat) :
    ((necSegments a na c nc).filter Segment.isMark).length = 6 + (na + nc) := by
  simp [necSegments, encodeBits_filter_isMark, List.filter_cons, Segment.isMark]
  omega

theorem necSegments_filter_isSpace_length (a na c nc : Nat) :
    ((necSegments a na c nc).filter Segment.isSpace).length = 5 + (na + nc) := by
  simp [necSegments, encodeBits_filter_isSpace_length, List.filter_cons, Segment.isSpace]
  omega

theorem markTime_necSegments (a na c nc : Nat) : markTime (necSegments a na c nc) = 28658 + 560 * (na + nc) := by
  simp [necSegments, markTime_encodeBits]
  omega

theorem totalDuration_necSegments (a na c nc : Nat) :
    totalDuration (necSegments a na c nc) =
      175372 + 1120 * (na + nc) + 1120 * (popcount a na + popcount c nc) := by
  simp [necSegments, totalDuration_encodeBits, Segment.duration]
  omega

/-- The release adds no time to a TV frame. -/
theorem totalDuration_necFrame (a na c nc : Nat) :
    totalDuration (necFrame a na c nc) = 175372 + 1120 * (na + nc) + 1120 * (popcount a na + popcount c nc) := by
  rw [necFrame_eq_necSegments_append, totalDuration_append, totalDuration_necSegments]
  rfl

/-! ### The payloads of the TV requests (44_command_lookup.md R122) -/

/-- The entry of `PAYLOAD_ROM` that a TV command sends. -/
def tvPayloads : Command → Payloads
  | .powerOn => romTvPowerOn
  | .powerOff => romTvPowerOff
  | .plus => romTvPlus
  | .minus => romTvMinus

theorem lookup_tv (c : Command) (t : Temp) : lookup .tv c t = some (tvPayloads c, t) := by cases c <;> rfl

theorem frameOf_tvPayloads (c : Command) :
    frameOf (tvPayloads c) = necFrame (tvPayloads c).v0.toNat 16 (tvPayloads c).v1.toNat 16 := by cases c <;> rfl

theorem popcount_tvPayloads (c : Command) :
    popcount (tvPayloads c).v0.toNat 16 + popcount (tvPayloads c).v1.toNat 16 = 15 := by cases c <;> decide

theorem segs_tv {i : Instr} (hd : i.device = .tv) (t : Temp) : segs i t = frameOf (tvPayloads i.command) := by
  rw [segs_eq_lookup, hd, lookup_tv]
  rfl

/-- Settles O13: the figures of a TV frame of any counts, at the counts 16 and 16; every TV request sends 15 ones. -/
theorem necFrameShape : Obligations.NecFrameShape := by
  refine ⟨fun a c => ?_, fun i t hd => ?_⟩
  · rw [popcount_mod_two_pow, popcount_mod_two_pow]
    exact ⟨necSegments a 16 c 16, necFrame_eq_necSegments_append a 16 c 16, necSegments_length a 16 c 16,
      necSegments_filter_isMark_length a 16 c 16, necSegments_filter_isSpace_length a 16 c 16,
      markTime_necSegments a 16 c 16, totalDuration_necSegments a 16 c 16⟩
  · rw [segs_tv hd, frameOf_tvPayloads, totalDuration_necFrame, popcount_tvPayloads]

end Sys2Proof

namespace Sys2Proof.Machine

/-! ### The TV requests and the temperature (43_nec_framer.md R117) -/

theorem exec_tv {i : Instr} (hd : i.device = .tv) (s : State) :
    exec i s = .next (s.accept (tvPayloads i.command) s.temp) :=
  exec_of_lookup (by rw [hd, lookup_tv])

/-- Settles O40: a TV request's payloads depend on its command alone, and it accepts them with the temperature it
finds. -/
theorem tvRequestsIgnoreTemperature : Obligations.TvRequestsIgnoreTemperature := by
  intro i s u hd
  constructor
  · rw [exec_tv hd, exec_tv hd]
    rfl
  · rw [segs_tv hd, segs_tv hd]

end Sys2Proof.Machine

/-! The lookup: the temperature table, what LOOKUP gives for each request, where a request refuses, the effect and the
frame of each of the eight requests, and a request's run from acceptance to its end (44_command_lookup.md R120 to
R139). -/

namespace Sys2Proof

open Machine (tempMap_eq_some tempMap_range satInc_toNat satDec_toNat)

/-! ### The temperature table (44_command_lookup.md R123 to R125, R138) -/

/-- Within the range the dataA pattern fits the 35 bits of its word. -/
theorem dataAPattern_toNat {t : Nat} (h : t ≤ 30) :
    (dataAPattern t).toNat = 0x250200000 + (t - 16) * 0x100 + 0x79 :=
  (BitVec.toNat_ofNat _ _).trans (Nat.mod_eq_of_lt (by omega))

/-- The keys of 26 to 29 degrees alone are free. -/
theorem TempParams.dataA_of_known (p : TempParams) {k : Fin 15} (h : k.val < 10 ∨ k.val = 14) :
    p.dataA k = dataAPattern (16 + k.val) := dif_neg (by omega)

theorem tempMap_dataA_toNat {t : Temp} {e : TempEntry} (he : tempMap t = some e) (h : t.toNat ≤ 25 ∨ t.toNat = 30) :
    e.dataA.toNat = 0x250200000 + (t.toNat - 16) * 0x100 + 0x79 := by
  have hrange := tempMap_range he
  rw [tempMap_eq_some hrange] at he
  cases he
  rw [TempParams.dataA_of_known _ (by dsimp only; omega), dataAPattern_toNat (by dsimp only; omega),
    Nat.add_sub_cancel_left]

theorem tempMap_23 : tempMap 23#5 = some ⟨0x250200779#35, 0x68001008#31⟩ := by decide

theorem tempMap_eq_none {t : Temp} : tempMap t = none ↔ ¬(16 ≤ t.toNat ∧ t.toNat ≤ 30) := by
  constructor
  · intro h hrange
    simp [tempMap_eq_some hrange] at h
  · exact fun h => if_neg h

/-- Settles O26: the keys other than those of 26 to 29 degrees hold the pattern, and every temperature of the range has a
key. -/
theorem temperatureTableKnownWords : Obligations.TemperatureTableKnownWords :=
  ⟨fun _ hlo h =>
      have he := tempMap_eq_some ⟨hlo, by omega⟩
      ⟨_, he, tempMap_dataA_toNat he h⟩,
    tempMap_23, fun _ hlo hhi => ⟨_, tempMap_eq_some ⟨hlo, hhi⟩⟩⟩

/-- Two temperatures have two keys, and by R138 the pairs at two keys differ. -/
theorem tempMap_ne {t u : Temp} (ht : 16 ≤ t.toNat ∧ t.toNat ≤ 30) (hu : 16 ≤ u.toNat ∧ u.toNat ≤ 30) (hne : t ≠ u) :
    tempMap t ≠ tempMap u := by
  have hkey : (⟨t.toNat - 16, by omega⟩ : Fin 15) ≠ ⟨u.toNat - 16, by omega⟩ := fun h => by
    have := Fin.val_eq_of_eq h
    exact hne (BitVec.eq_of_toNat_eq (by dsimp only at this; omega))
  rw [tempMap_eq_some ht, tempMap_eq_some hu]
  intro heq
  obtain ⟨ha, hb⟩ := TempEntry.mk.inj (Option.some.inj heq)
  exact tempTable.property _ _ hkey (Prod.ext ha hb)

/-- Settles O27: the table's constraint is R138 itself, and the pattern takes the 23 degree word at 23 degrees only. -/
theorem temperatureEntriesDistinct : Obligations.TemperatureEntriesDistinct := by
  refine ⟨fun t u htlo hthi hulo huhi => tempMap_ne ⟨htlo, hthi⟩ ⟨hulo, huhi⟩, fun t e he hne h hword => hne ?_⟩
  have hpattern : 0x250200779 = 0x250200000 + (t.toNat - 16) * 0x100 + 0x79 := by
    simpa [hword] using tempMap_dataA_toNat he h
  obtain ⟨hlo, -⟩ := tempMap_range he
  have h23 : t.toNat = 23 := by omega
  exact BitVec.eq_of_toNat_eq h23

/-! ### `PAYLOAD_ROM` and LOOKUP (44_command_lookup.md R120 to R122) -/

/-- Settles O23: `PAYLOAD_ROM` read at each code. -/
theorem payloadRomContents : Obligations.PayloadRomContents := ⟨rfl, rfl, rfl, rfl, rfl, rfl, rfl, rfl⟩

theorem lookup_acPlus {t u : Temp} {e : TempEntry} (hu : satInc t = u) (he : tempMap u = some e) :
    lookup .ac .plus t = some (tempPayloads e, u) := by simp [lookup, hu, he]

theorem lookup_acMinus {t u : Temp} {e : TempEntry} (hu : satDec t = u) (he : tempMap u = some e) :
    lookup .ac .minus t = some (tempPayloads e, u) := by simp [lookup, hu, he]

/-- At every code but the two that change the temperature, LOOKUP gives the fixed payloads. -/
theorem lookup_eq_payloadRom {c : Code} (hplus : c ≠ 6#3) (hminus : c ≠ 7#3) (t : Temp) :
    ∃ p, payloadRom c = some p ∧ lookup (devField c) (cmdField c) t = some (p, t) := by
  rw [← decodeReq_device, ← decodeReq_command, payloadRom]
  cases hi : decodeReq c with
  | acPlus => exact absurd (decodeReq_eq_iff.1 hi) hplus
  | acMinus => exact absurd (decodeReq_eq_iff.1 hi) hminus
  | tvPowerOn => exact ⟨_, rfl, rfl⟩
  | tvPowerOff => exact ⟨_, rfl, rfl⟩
  | tvPlus => exact ⟨_, rfl, rfl⟩
  | tvMinus => exact ⟨_, rfl, rfl⟩
  | acPowerOn => exact ⟨_, rfl, rfl⟩
  | acPowerOff => exact ⟨_, rfl, rfl⟩

theorem lookup_acPowerOn (t : Temp) : lookup .ac .powerOn t = some (romAcPowerOn, t) := rfl

theorem lookup_acPowerOff (t : Temp) : lookup .ac .powerOff t = some (romAcPowerOff, t) := rfl

/-- Settles O24: the two temperature requests apart, and every other code reads `PAYLOAD_ROM`. -/
theorem lookupByCode : Obligations.LookupByCode :=
  ⟨fun _ _ => lookup_acPlus rfl, fun _ _ => lookup_acMinus rfl,
    fun _ t hplus hminus => lookup_eq_payloadRom hplus hminus t⟩

/-! ### DISPATCH and SEGS of what LOOKUP gives (44_command_lookup.md R121, R128) -/

theorem dispatch_of_lookup {i : Instr} {t u : Temp} {p : Payloads} (hl : lookup i.device i.command t = some (p, u)) :
    dispatch i t = some (frameOf p, u) := by simp [dispatch, hl]

theorem segs_of_lookup {i : Instr} {t u : Temp} {p : Payloads} (hl : lookup i.device i.command t = some (p, u)) :
    segs i t = frameOf p := by simp [segs, dispatch_of_lookup hl]

/-- The 31 bits of dataB keep their value in the 35-bit slot. -/
theorem dataB_setWidth_toNat (b : DataB) : (b.setWidth 35).toNat = b.toNat := BitVec.toNat_setWidth_of_le (by decide)

theorem frameOf_tempPayloads (e : TempEntry) :
    frameOf (tempPayloads e) = acFrame e.dataA.toNat 35 e.dataB.toNat 31 := by
  rw [← dataB_setWidth_toNat]
  rfl

/-- The release adds no time to an AC frame. -/
theorem totalDuration_acFrame (a b : Nat) :
    totalDuration (acFrame a 35 b 31) = 111422 + 1120 * (popcount a 35 + popcount b 31) := by
  rw [acFrame_eq_acSegments_append, totalDuration_append, totalDuration_acSegments]
  rfl

/-! ### The temperature update (44_command_lookup.md R126) -/

/-- Where LOOKUP gives a temperature-table entry, the request's frame is that entry's. -/
theorem dispatch_tempRequest {i : Instr} {t u : Temp} {e : TempEntry}
    (hl : lookup i.device i.command t = some (tempPayloads e, u)) :
    dispatch i t = some (acFrame e.dataA.toNat 35 e.dataB.toNat 31, u) := by
  rw [dispatch_of_lookup hl, frameOf_tempPayloads]

theorem dispatch_tempRequest_23 {i : Instr} {t : Temp}
    (hl : lookup i.device i.command t = some (tempPayloads ⟨0x250200779#35, 0x68001008#31⟩, 23#5)) :
    dispatch i t = some (acFrame 0x250200779 35 0x68001008 31, 23#5) := by simpa using dispatch_tempRequest hl

theorem totalDuration_tempRequest {i : Instr} {t u : Temp} {e : TempEntry}
    (hl : lookup i.device i.command t = some (tempPayloads e, u)) :
    totalDuration (segs i t) = 111422 + 1120 * (popcount e.dataA.toNat 35 + popcount e.dataB.toNat 31) := by
  rw [segs_of_lookup hl, frameOf_tempPayloads, totalDuration_acFrame]

/-- The words of the 23 degree entry have 17 ones. -/
theorem totalDuration_tempRequest_23 {i : Instr} {t u : Temp} {e : TempEntry}
    (hl : lookup i.device i.command t = some (tempPayloads e, u)) (he : tempMap u = some e) (hu : u = 23#5) :
    totalDuration (segs i t) = 130462 := by
  rw [hu, tempMap_23] at he
  cases he
  rw [totalDuration_tempRequest hl]
  decide

theorem satInc_range {t : Temp} (hlo : 15 ≤ t.toNat) : 16 ≤ (satInc t).toNat ∧ (satInc t).toNat ≤ 30 := by
  rw [satInc_toNat]
  omega

theorem satDec_range (t : Temp) : 16 ≤ (satDec t).toNat ∧ (satDec t).toNat ≤ 30 := by
  have := t.isLt
  rw [satDec_toNat]
  omega

theorem satInc_30 : satInc 30#5 = 30#5 := rfl

theorem satDec_16 : satDec 16#5 = 16#5 := rfl

/-- Settles O25: at a bound the updated temperature is the held one, and the request sends its entry. -/
theorem temperatureSaturates : Obligations.TemperatureSaturates := by
  refine ⟨fun t hlo _ => ?_, satInc_30, satDec_16, ?_, ?_⟩
  · obtain ⟨hilo, hihi⟩ := satInc_range (t := t) (by omega)
    obtain ⟨hdlo, hdhi⟩ := satDec_range t
    exact ⟨satInc_toNat t, satDec_toNat t, hilo, hihi, hdlo, hdhi⟩
  · have he := tempMap_eq_some (t := 30#5) (by decide)
    exact ⟨_, he, dispatch_of_lookup (i := .acPlus) (lookup_acPlus satInc_30 he)⟩
  · have he := tempMap_eq_some (t := 16#5) (by decide)
    exact ⟨_, he, dispatch_of_lookup (i := .acMinus) (lookup_acMinus satDec_16 he)⟩

/-! ### The payload bits in a frame (41_bitstream_serializer.md R90) -/

/-- A beginning of ENCODE is ENCODE of fewer bits. -/
theorem encodeBits_take {m n : Nat} (v : Nat) (h : m ≤ n) : (encodeBits v n).take (2 * m) = encodeBits v m := by
  induction n with
  | zero => rw [Nat.le_zero.1 h]; rfl
  | succ n ih =>
    rcases Nat.lt_or_ge n m with hlt | hle
    · rw [Nat.le_antisymm h hlt, ← encodeBits_length v (n + 1), List.take_length]
    · rw [encodeBits_succ, List.take_append_of_le_length (by simp; omega), ih hle]

/-- The first bits of a TV frame's first payload. -/
theorem necFrame_first_bits {m na : Nat} (a c nc : Nat) (h : m ≤ na) :
    ((necFrame a na c nc).drop 2).take (2 * m) = encodeBits a m := by
  calc ((necFrame a na c nc).drop 2).take (2 * m)
      = (((necFrame a na c nc).drop 2).take (2 * na)).take (2 * m) := by rw [List.take_take, min_eq_left (by omega)]
    _ = encodeBits a m := by rw [necFrame_first_payload, encodeBits_take a h]

/-- Bit `i` of an AC frame's first payload. -/
theorem acFrame_first_payload_bit {i na : Nat} (a b nb : Nat) (h : i < na) :
    ((acFrame a na b nb).drop (2 + 2 * i)).take 2 = symbol (bit a i) := by
  calc ((acFrame a na b nb).drop (2 + 2 * i)).take 2
      = ((((acFrame a na b nb).drop 2).take (2 * na)).drop (2 * i)).take 2 := by
        rw [List.drop_take, List.take_take, List.drop_drop, min_eq_left (by omega)]
    _ = symbol (bit a i) := by rw [acFrame_first_payload, encodeBits_drop h]; rfl

/-- The command symbols of a TV request. -/
theorem segs_tv_command {i : Instr} (hd : i.device = .tv) (t : Temp) :
    ((segs i t).drop 34).take 32 = encodeBits (tvPayloads i.command).v1.toNat 16 := by
  rw [segs_tv hd, frameOf_tvPayloads]
  exact necFrame_second_payload _ 16 _ 16

theorem totalDuration_segs_tv {i : Instr} (hd : i.device = .tv) (t : Temp) : totalDuration (segs i t) = 228012 :=
  necFrameShape.2 i t hd

theorem dispatch_tv {i : Instr} (hd : i.device = .tv) (t : Temp) :
    dispatch i t = some (frameOf (tvPayloads i.command), t) := dispatch_of_lookup (by rw [hd, lookup_tv])

theorem segs_acPowerOn (t : Temp) : segs .acPowerOn t = acFrame 0x250200659 35 0x60001008 31 :=
  segs_of_lookup (i := .acPowerOn) (lookup_acPowerOn t)

theorem segs_acPowerOff (t : Temp) : segs .acPowerOff t = acFrame 0x250200651 35 0x20001008 31 :=
  segs_of_lookup (i := .acPowerOff) (lookup_acPowerOff t)

end Sys2Proof

namespace Sys2Proof.Machine

/-! ### Acceptance (44_command_lookup.md R127, R139; 92_eei_decisions.md D31) -/

/-- Settles O30: the load of acceptance, field by field. -/
theorem acceptanceLoadsTheRegisters : Obligations.AcceptanceLoadsTheRegisters := fun _ _ _ _ hl =>
  ⟨_, exec_of_lookup hl, rfl, rfl⟩

/-- Settles O29: the two kinds of payloads that LOOKUP gives, and their widths. -/
theorem payloadsFitTheirCounts : Obligations.PayloadsFitTheirCounts := by
  intro i s t h
  obtain ⟨p, u, hl, rfl⟩ := exec_eq_next h
  obtain ⟨⟨hp, h0, h1, hd⟩ | ⟨hp, h0, h1, hd⟩, hfit0, hfit1, -⟩ := lookup_cases hl
  · exact ⟨hfit0, hfit1, by simp [hp, h0, protocolCount], by simp [hp, h1, protocolCount], by simp [hp, hd]⟩
  · exact ⟨hfit0, hfit1, by simp [hp, h0, protocolCount], by simp [hp, h1, protocolCount], by simp [hp, hd]⟩

theorem acceptTemp_eq_refused {t : Temp} {s : State} {r : Refusal} :
    acceptTemp t s = .refused r ↔ tempMap t = none ∧ r = .tempOutOfRange := by
  cases he : tempMap t with
  | none => simp [acceptTemp, he, eq_comm]
  | some e => simp [acceptTemp, he]

/-- The new temperature of `AC.MINUS` is always in the range, and the fixed requests look at none. -/
theorem exec_answers_of_ne_acPlus {i : Instr} (hi : i ≠ .acPlus) (s : State) : ∃ t, exec i s = .next t := by
  cases i with
  | acPlus => exact absurd rfl hi
  | acMinus => exact ⟨_, exec_of_lookup (i := .acMinus) (lookup_acMinus rfl (tempMap_eq_some (satDec_range s.temp)))⟩
  | tvPowerOn => exact ⟨_, rfl⟩
  | tvPowerOff => exact ⟨_, rfl⟩
  | tvPlus => exact ⟨_, rfl⟩
  | tvMinus => exact ⟨_, rfl⟩
  | acPowerOn => exact ⟨_, rfl⟩
  | acPowerOff => exact ⟨_, rfl⟩

theorem exec_acPlus_eq_refused {s : State} {r : Refusal} :
    exec .acPlus s = .refused r ↔ s.temp.toNat < 15 ∧ r = .tempOutOfRange := by
  have hbelow : ¬(16 ≤ (satInc s.temp).toNat ∧ (satInc s.temp).toNat ≤ 30) ↔ s.temp.toNat < 15 := by
    rw [satInc_toNat]
    omega
  rw [← hbelow, ← tempMap_eq_none]
  exact acceptTemp_eq_refused

/-- Settles O28: only `AC.PLUS` may give TEMP_MAP a temperature that it refuses. -/
theorem refusalOutsideTheRange : Obligations.RefusalOutsideTheRange := by
  intro i s r
  by_cases hi : i = .acPlus
  · subst hi
    simp [exec_acPlus_eq_refused]
  · obtain ⟨t, ht⟩ := exec_answers_of_ne_acPlus hi s
    simp [ht, hi]

/-! ### The eight requests (44_command_lookup.md R130 to R137) -/

/-- Settles O31: the low byte of the address word is 0. -/
theorem tvPowerOnCompletes : Obligations.TvPowerOnCompletes := by
  refine ⟨fun s => ⟨[], exec_tv rfl s⟩, fun t => ⟨dispatch_tv rfl t, totalDuration_segs_tv rfl t, ?_⟩⟩
  rw [segs_tv rfl, frameOf_tvPayloads]
  exact (necFrame_first_bits (m := 8) (na := 16) _ _ 16 (by decide)).trans (by decide)

/-- Settles O32: the two entries of `PAYLOAD_ROM` are the same. -/
theorem tvPowerOffCompletes : Obligations.TvPowerOffCompletes :=
  ⟨fun s => ⟨[], exec_tv rfl s⟩, fun t =>
    ⟨dispatch_tv rfl t, (segs_tv rfl t).trans (segs_tv rfl t).symm, totalDuration_segs_tv rfl t⟩⟩

/-- Settles O33: the command symbols are ENCODE of the command word. -/
theorem tvPlusCompletes : Obligations.TvPlusCompletes :=
  ⟨fun s => ⟨[], exec_tv rfl s⟩, fun t =>
    ⟨dispatch_tv rfl t, totalDuration_segs_tv rfl t, (segs_tv_command rfl t).trans (by decide)⟩⟩

/-- Settles O34: as for `TV.PLUS`, with its own command word. -/
theorem tvMinusCompletes : Obligations.TvMinusCompletes :=
  ⟨fun s => ⟨[], exec_tv rfl s⟩, fun t =>
    ⟨dispatch_tv rfl t, totalDuration_segs_tv rfl t, (segs_tv_command rfl t).trans (by decide)⟩⟩

/-- Settles O35: the frame's time follows from its ones, and its bit 34 from where a payload bit stands in a frame. -/
theorem acPowerOnCompletes : Obligations.AcPowerOnCompletes := by
  have ha : popcount 0x250200659 35 = 10 := by decide
  have hb : popcount 0x60001008 31 = 4 := by decide
  refine ⟨fun s => ⟨[], exec_of_lookup (i := .acPowerOn) (lookup_acPowerOn s.temp)⟩, ha, hb, fun t =>
    ⟨dispatch_of_lookup (i := .acPowerOn) (lookup_acPowerOn t), ?_, ?_⟩⟩
  · rw [segs_acPowerOn, totalDuration_acFrame, ha, hb]
  · rw [segs_acPowerOn]
    exact acFrame_first_payload_bit (i := 34) _ _ _ (by decide)

/-- Settles O36: as for `AC.POWER_ON`; the symbols of dataB are ENCODE of it. -/
theorem acPowerOffCompletes : Obligations.AcPowerOffCompletes := by
  have ha : popcount 0x250200651 35 = 9 := by decide
  have hb : popcount 0x20001008 31 = 3 := by decide
  refine ⟨fun s => ⟨[], exec_of_lookup (i := .acPowerOff) (lookup_acPowerOff s.temp)⟩, ha, hb, fun t =>
    ⟨dispatch_of_lookup (i := .acPowerOff) (lookup_acPowerOff t), ?_, ?_, ?_⟩⟩
  · rw [segs_acPowerOff, totalDuration_acFrame, ha, hb]
  · rw [segs_acPowerOff]
    exact acFrame_first_payload_bit (i := 34) _ _ _ (by decide)
  · rw [segs_acPowerOff]
    exact (acFrame_second_payload _ 35 _ 31).trans (by decide)

/-- Settles O37: LOOKUP gives the entry of the incremented temperature, which TEMP_MAP holds. -/
theorem acPlusCompletes : Obligations.AcPlusCompletes := by
  refine ⟨fun s hlo _ => ?_, dispatch_tempRequest_23 (i := .acPlus) (lookup_acPlus (t := 22#5) rfl tempMap_23)⟩
  have he := tempMap_eq_some (satInc_range (t := s.temp) (by omega))
  have hl := lookup_acPlus rfl he
  exact ⟨satInc s.temp, _, [], satInc_toNat _, he, exec_of_lookup (i := .acPlus) hl,
    dispatch_tempRequest (i := .acPlus) hl, totalDuration_tempRequest (i := .acPlus) hl,
    fun h => by rw [h, satInc_30], totalDuration_tempRequest_23 (i := .acPlus) hl he⟩

/-- Settles O38: LOOKUP gives the entry of the decremented temperature, which TEMP_MAP holds. -/
theorem acMinusCompletes : Obligations.AcMinusCompletes := by
  refine ⟨fun s _ _ => ?_, dispatch_tempRequest_23 (i := .acMinus) (lookup_acMinus (t := 24#5) rfl tempMap_23)⟩
  have he := tempMap_eq_some (satDec_range s.temp)
  have hl := lookup_acMinus rfl he
  exact ⟨satDec s.temp, _, [], satDec_toNat _, he, exec_of_lookup (i := .acMinus) hl,
    dispatch_tempRequest (i := .acMinus) hl, totalDuration_tempRequest (i := .acMinus) hl,
    fun h => by rw [h, satDec_16], totalDuration_tempRequest_23 (i := .acMinus) hl he⟩

/-! ### A request from its acceptance to its end (44_command_lookup.md R128) -/

/-- Settles O53: acceptance puts the request's whole list before the sequencer, whose steps conserve the output. -/
theorem stepKeepsTheRequestsFrame : Obligations.StepKeepsTheRequestsFrame := fun _ _ hs hsend h =>
  step_sendsARequest h hs hsend

/-- `END` is still to come after an `ENC` element. -/
theorem finish_mem_after_enc {p : Protocol} {ix : StepIx} {k : Slot} (h : progRom p ix = some (.enc k)) :
    .finish ∈ (program p).drop (ix.toNat + 1) := by
  cases p <;> cases k <;> decide +revert

/-- A frame in progress has at least the release still to emit. -/
theorem State.pending_ne_nil {s : State} (hb : s.busy = true) (hpos : s.PositionOk) : s.pending ≠ [] := by
  obtain ⟨e, he⟩ := hpos.exists_element
  cases e with
  | enc k =>
    have hrelease : .release ∈ s.laterSegs :=
      List.mem_flatMap.2 ⟨.finish, finish_mem_after_enc he, List.mem_singleton_self _⟩
    rw [State.pending_of_enc hb hpos he]
    exact List.append_ne_nil_of_right_ne_nil _ (List.ne_nil_of_mem hrelease)
  | mark d => rw [State.pending_of_not_enc hb hpos he (by simp)]; exact List.cons_ne_nil _ _
  | space d => rw [State.pending_of_not_enc hb hpos he (by simp)]; exact List.cons_ne_nil _ _
  | finish => rw [State.pending_of_not_enc hb hpos he (by simp)]; exact List.cons_ne_nil _ _

/-- Until all the steps of its frame have passed, an accepted request is being sent. -/
theorem run_request_busy {s : State} {i : Instr} {k : Nat} (hs : s.Legal) (hn : NoReset s.inputs)
    (he : edgeEvent s = .accept i) (hk : k < requestSteps i) :
    ∃ u, run (k + 1) s = .next u ∧ u.Legal ∧ u.busy = true ∧ u.temp = tempAfter s.temp i ∧
      u.trace ++ u.pending = segs i s.temp := by
  obtain ⟨t, ht, htl, htrace, hpend, htemp, hleft, hin⟩ := step_accept hs hn he
  obtain ⟨u, hu, hadv⟩ := run_frameAdvance (k := k) htl (by rw [hin]; exact hn.tail) (by omega)
  have hbusy : u.busy = true := by
    have := hadv.stepsLeft
    exact (State.busy_iff_stepsLeft_pos hadv.legal).2 (by omega)
  have hout := hadv.output
  rw [htrace, hpend, List.nil_append] at hout
  exact ⟨u, by rw [run_succ, ht, andThen_next, hu], hadv.legal, hbusy, hadv.temp.trans htemp, hout⟩

/-- Settles O54: the run to the end of the frame, and the run to a step before it. -/
theorem acceptedRequestRunsToItsEnd : Obligations.AcceptedRequestRunsToItsEnd := by
  intro s i hs hn he
  constructor
  · obtain ⟨t, ht, htl, hidle, htrace, htemp, -⟩ := run_request hs hn he
    exact ⟨t, ht, hidle, htl.idleDark hidle, htrace, htemp⟩
  · intro k hk1 hk
    obtain ⟨k, rfl⟩ := Nat.exists_eq_add_of_le' hk1
    obtain ⟨u, hu, hul, hb, htemp, hout⟩ := run_request_busy hs hn he hk
    exact ⟨u, hu, hb, htemp, hout, State.pending_ne_nil hb (hul.frame hb).position⟩

end Sys2Proof.Machine

/-! The exceptions the core does not have (60_exceptions.md): the order in which an edge decides, and that no legal state
stops. -/

namespace Sys2Proof.Machine

/-! ### What each kind of edge answers (60_exceptions.md R154); `step_of_accept` is the second of the four -/

/-- Reset excludes everything else: whatever was in progress or on the port is not looked at. -/
theorem step_of_reset {s : State} (he : edgeEvent s = .reset) :
    step s = .next (s.resetRegisters.drive (heldInputs s.inputs)) := by
  simp only [step, he]
  rfl

/-- The sequencer's step comes first, and then the ports are driven by what it leaves of the script. -/
theorem step_of_sequence {s : State} (he : edgeEvent s = .sequence) :
    step s = mapNext (fun t => t.drive (heldInputs t.inputs)) (seqStep s) := by
  simp only [step, he]
  rfl

theorem step_of_idle {s : State} (he : edgeEvent s = .idle) : step s = .next (s.drive (heldInputs s.inputs)) := by
  simp only [step, he]
  rfl

/-- Settles O44: the levels of `rst`, `busy` and `req_valid` fix the event, and the event fixes the answer. -/
theorem edgePriority : Obligations.EdgePriority := fun _ =>
  ⟨fun hr => step_of_reset (edgeEvent_reset.2 hr),
    fun hr hb hv => step_of_accept (edgeEvent_accept.2 ⟨hr, hb, hv, rfl⟩),
    fun hr hb => step_of_sequence (edgeEvent_sequence.2 ⟨hr, hb⟩),
    fun hr hb hv => step_of_idle (edgeEvent_idle.2 ⟨hr, hb, hv⟩)⟩

/-- Settles O52: a legal temperature is in TEMP_MAP's range, and a legal position holds an element with legal counts, so
neither acceptance nor the sequencer refuses. -/
theorem legalStatesStepOn : Obligations.LegalStatesStepOn := fun _ hs => step_answers hs

end Sys2Proof.Machine

/-! Reset and hazards (70_reset_and_hazards.md): the duration of each request, what a reset leaves, and a request that is
held while a frame ends. -/

namespace Sys2Proof

open Machine (tempMap_eq_some)

/-! ### The times of a frame (70_reset_and_hazards.md R182) -/

/-- A frame is marks and spaces, and the release takes no time. -/
theorem markTime_add_spaceTime (l : List Segment) : markTime l + spaceTime l = totalDuration l := by
  induction l with
  | nil => rfl
  | cons g l ih =>
    rw [totalDuration_cons, ← ih]
    cases g with
    | mark d => exact Nat.add_assoc d _ _
    | space d => exact Nat.add_left_comm _ d _
    | release => exact (Nat.zero_add _).symm

/-- The segments with the release, the mark time, the space time and the total of a segment list. -/
def HasFigures (l : List Segment) (segments mark space total : Nat) : Prop :=
  l.length = segments + 1 ∧ markTime l = mark ∧ spaceTime l = space ∧ totalDuration l = total

/-- The space time is what the total leaves beside the mark time. -/
theorem hasFigures_of_total {l : List Segment} {segments mark space total : Nat} (hlen : l.length = segments + 1)
    (hmark : markTime l = mark) (htotal : totalDuration l = total) (hsum : mark + space = total) :
    HasFigures l segments mark space total := by
  have := markTime_add_spaceTime l
  exact ⟨hlen, hmark, by omega, htotal⟩

/-- The figures of an AC frame that sends `k` ones. -/
theorem acFrame_hasFigures {a b k : Nat} (hk : popcount a 35 + popcount b 31 = k) :
    HasFigures (acFrame a 35 b 31) 139 47632 (63790 + 1120 * k) (111422 + 1120 * k) := by
  refine hasFigures_of_total ?_ ?_ (by rw [totalDuration_acFrame, hk]) (by omega)
  · rw [acFrame_eq_acSegments_append, List.length_append, acSegments_length]
    rfl
  · rw [acFrame_eq_acSegments_append, markTime_append, markTime_acSegments]
    rfl

/-- The figures of a TV frame that sends `k` ones. -/
theorem necFrame_hasFigures {a c k : Nat} (hk : popcount a 16 + popcount c 16 = k) :
    HasFigures (necFrame a 16 c 16) 75 46578 (164634 + 1120 * k) (211212 + 1120 * k) := by
  refine hasFigures_of_total ?_ ?_ (by rw [totalDuration_necFrame, hk]) (by omega)
  · rw [necFrame_eq_necSegments_append, List.length_append, necSegments_length]
    rfl
  · rw [necFrame_eq_necSegments_append, markTime_append, markTime_necSegments]
    rfl

theorem tempAfter_of_lookup {i : Instr} {t u : Temp} {p : Payloads}
    (hl : lookup i.device i.command t = some (p, u)) : tempAfter t i = u := by
  simp [tempAfter, dispatch_of_lookup hl]

/-- At a legal temperature, LOOKUP gives `AC.PLUS` and `AC.MINUS` the entry of the temperature they leave. -/
theorem lookup_tempRequest {i : Instr} {t : Temp} {e : TempEntry} (hi : i = .acPlus ∨ i = .acMinus)
    (hlo : 16 ≤ t.toNat) (he : tempMap (tempAfter t i) = some e) :
    lookup i.device i.command t = some (tempPayloads e, tempAfter t i) := by
  obtain rfl | rfl := hi
  · have hafter : tempAfter t .acPlus = satInc t :=
      tempAfter_of_lookup (i := .acPlus) (lookup_acPlus rfl (tempMap_eq_some (satInc_range (by omega))))
    exact lookup_acPlus hafter.symm he
  · have hafter : tempAfter t .acMinus = satDec t :=
      tempAfter_of_lookup (i := .acMinus) (lookup_acMinus rfl (tempMap_eq_some (satDec_range t)))
    exact lookup_acMinus hafter.symm he

/-- `AC.PLUS` and `AC.MINUS` have the figures of the entry they send. -/
theorem segs_tempRequest_hasFigures {i : Instr} {t : Temp} {e : TempEntry} {k : Nat} (hi : i = .acPlus ∨ i = .acMinus)
    (hlo : 16 ≤ t.toNat) (he : tempMap (tempAfter t i) = some e)
    (hk : popcount e.dataA.toNat 35 + popcount e.dataB.toNat 31 = k) :
    HasFigures (segs i t) 139 47632 (63790 + 1120 * k) (111422 + 1120 * k) := by
  rw [segs_of_lookup (lookup_tempRequest hi hlo he), frameOf_tempPayloads]
  exact acFrame_hasFigures hk

/-- Settles O41: each request's figures are those of its frame, by the number of ones in what it sends: 15 for the TV, 14 and
12 for the AC's power requests, and 17 at 23 degrees. -/
theorem durationsPerRequest : Obligations.DurationsPerRequest := by
  refine ⟨fun i t hd => ?_, fun t => ?_, fun t => ?_, fun i t hi hlo _ h23 => ?_, fun i t e hi hlo _ he => ?_⟩
  · rw [segs_tv hd, frameOf_tvPayloads]
    exact necFrame_hasFigures (popcount_tvPayloads i.command)
  · rw [segs_acPowerOn]
    exact acFrame_hasFigures (k := 14) (by decide)
  · rw [segs_acPowerOff]
    exact acFrame_hasFigures (k := 12) (by decide)
  · exact segs_tempRequest_hasFigures (k := 17) hi hlo (h23 ▸ tempMap_23) (by decide)
  · exact segs_tempRequest_hasFigures hi hlo he rfl

end Sys2Proof

namespace Sys2Proof.Machine

/-! ### Reset (70_reset_and_hazards.md R170, R171) -/

/-- A step ends by driving the ports. -/
theorem step_eq_drive {s t : State} (h : step s = .next t) : ∃ x l, t = State.drive l x := by
  obtain ⟨-, rfl⟩ | ⟨i, u, -, -, rfl⟩ | ⟨u, -, -, rfl⟩ | ⟨-, rfl⟩ := step_cases h
  · exact ⟨_, _, rfl⟩
  · exact ⟨_, _, rfl⟩
  · exact ⟨_, _, rfl⟩
  · exact ⟨_, _, rfl⟩

/-- A core at its reset values stays there, whatever drives its ports. -/
theorem State.resetRegisters_drive (l : List Stimulus) (s : State) :
    s.resetRegisters.drive l = ({ s with inputs := l } : State).resetRegisters := by
  obtain ⟨-, hd⟩ | ⟨-, hd⟩ := State.drive_cases l s.resetRegisters
  · exact hd
  · exact hd

/-- With `rst` = 1 before or after it, a step leaves the reset values: the edge resets, or the ports after it do. -/
theorem step_resets {s t : State} (h : step s = .next t) (hr : s.rst = true ∨ t.rst = true) :
    ∃ x : State, t = x.resetRegisters := by
  obtain hr | hr := hr
  · rw [step_of_reset (edgeEvent_reset.2 hr), State.resetRegisters_drive] at h
    cases h
    exact ⟨_, rfl⟩
  · obtain ⟨x, l, rfl⟩ := step_eq_drive h
    obtain ⟨hr', -⟩ | ⟨-, hd⟩ := State.drive_cases l x
    · simp [hr'] at hr
    · exact ⟨_, hd⟩

theorem step_of_reset_trace {s t : State} (h : step s = .next t) (hr : s.rst = true) : t.trace = s.trace := by
  rw [step_of_reset (edgeEvent_reset.2 hr)] at h
  cases h
  exact State.drive_trace _ _

/-- Settles O45: the fields of the reset values; and an idle core has nothing left to emit. -/
theorem resetHoldsAndAborts : Obligations.ResetHoldsAndAborts := by
  intro s t h hr
  have htrace := step_of_reset_trace h
  obtain ⟨x, rfl⟩ := step_resets h hr
  exact ⟨rfl, rfl, rfl, rfl, rfl, fun hs => ⟨htrace hs, State.pending_of_idle rfl⟩⟩

/-! ### A request held while a frame ends (70_reset_and_hazards.md R180) -/

/-- An idle core with a held request on its port accepts it at this edge. -/
theorem edgeEvent_of_request {s : State} {c : Code} {l : List Stimulus} (hb : s.busy = false)
    (hin : s.inputs = .request c :: l) : edgeEvent s = .accept (decodeReq c) :=
  edgeEvent_accept.2
    ⟨s.rst_request c l hin, hb, by simp only [State.reqValid, hin], by simp only [State.reqCode, hin]⟩

/-- Settles O47: `END` leaves the core idle with the request still on its port. -/
theorem heldRequestFollowsAtOnce : Obligations.HeldRequestFollowsAtOnce := by
  intro s c l hb hin hend
  have hstep : step s = .next (s.endFrame.drive (.request c :: l)) := by
    rw [step_of_sequence (edgeEvent_sequence.2 ⟨s.rst_request c l hin, hb⟩), seqStep_at hend]
    simp only [runElement, mapNext_next, State.endFrame_inputs, hin, heldInputs]
  exact ⟨_, hstep, rfl, rfl, rfl, edgeEvent_of_request rfl rfl⟩

/-! ### Frame after frame in time (70_reset_and_hazards.md R180, 40_pulse_generator.md R84) -/

theorem proceed_inputs {clkHz : Nat} {s t : State} (h : proceed clkHz s = .next t) : t.inputs = s.inputs := by
  obtain ⟨-, rfl⟩ | ⟨-, -, rfl⟩ | ⟨-, -, u, hu, rfl⟩ := proceed_cases h
  · rfl
  · rfl
  · obtain ⟨-, -, -, -, hin⟩ := seqStep_frame hu
    exact hin

/-- An edge of a busy core takes no request from the script. -/
theorem timedEdge_inputs_of_busy {clkHz latency : Nat} {s t : State} (h : timedEdgeWith clkHz latency s = .next t)
    (hb : s.busy = true) : t.inputs = heldInputs s.inputs := by
  obtain ⟨-, rfl⟩ | ⟨i, u, he, -, -⟩ | ⟨u, -, hu, rfl⟩ | ⟨-, rfl⟩ := timedEdge_cases h
  · exact State.drive_inputs _ _
  · obtain ⟨-, hidle, -⟩ := edgeEvent_accept.1 he
    simp [hb] at hidle
  · rw [State.afterEdge, State.drive_inputs, proceed_inputs hu]
  · exact State.drive_inputs _ _

/-- An edge that accepts a request takes it from the script. -/
theorem timedEdge_inputs_of_accept {clkHz latency : Nat} {s t : State} {i : Instr}
    (h : timedEdgeWith clkHz latency s = .next t) (he : edgeEvent s = .accept i) : t.inputs = s.inputs.tail := by
  simp only [timedEdgeWith, he] at h
  obtain ⟨u, hu, rfl⟩ := mapNext_eq_next h
  obtain ⟨-, -, -, -, hin⟩ := exec_pending hu
  rw [State.afterAccept, State.drive_inputs, ← hin]
  rfl

theorem State.idle_of_edgesLeft_zero {clkHz : Nat} {s : State} (hs : s.Legal) (h : s.edgesLeft clkHz = 0) :
    s.busy = false := by
  refine Bool.eq_false_iff.2 fun hb => ?_
  have := (State.busy_iff_stepsLeft_pos hs).1 hb
  rw [State.edgesLeft] at h
  omega

/-- The cycles after a frame are those of the idle core in which the frame ends, at the very instant at which its waveform
has passed, with a held script as it was: by induction on the edges left. -/
theorem duringCycle_after_frame {clkHz latency n : Nat} {s : State} (k : Nat) (hc : 0 < clkHz) (hs : s.Legal)
    (hn : NoReset s.inputs) (hheld : heldInputs s.inputs = s.inputs) (hleft : s.edgesLeft clkHz = n) :
    ∃ t, duringCycle clkHz latency (totalDuration (s.waveform clkHz) + k) s = duringCycle clkHz latency k t ∧
      t.Legal ∧ t.busy = false ∧ t.inputs = s.inputs ∧ t.temp = s.temp := by
  induction n generalizing s with
  | zero =>
    have hb := State.idle_of_edgesLeft_zero hs hleft
    refine ⟨s, ?_, hs, hb, rfl, rfl⟩
    rw [State.waveform_of_idle hb, totalDuration_nil, Nat.zero_add]
  | succ n ih =>
    have hb : s.busy = true := State.busy_of_edgesLeft_pos (clkHz := clkHz) (by omega)
    obtain ⟨u, hu, hul, hun, hadv⟩ := timedEdge_advance clkHz latency hs hb hn
    have hin : u.inputs = s.inputs := (timedEdge_inputs_of_busy hu hb).trans hheld
    obtain ⟨t, ht, htl, hidle, htin, htemp⟩ :=
      ih hul hun (hin.symm ▸ hheld) (by have := hadv.edgesLeft; omega)
    refine ⟨t, ?_, htl, hidle, htin.trans hin, htemp.trans hadv.temp⟩
    rw [← ht, ← hadv.time]
    by_cases h0 : s.edgeCycles = 0
    · rw [h0, Nat.add_zero, duringCycle_of_instant _ hc hs h0 hu]
    · have h1 := edgeCycles_eq_one h0
      rw [h1, Nat.add_right_comm, duringCycle_succ clkHz latency _ h1 hu]

/-- The cycles after an accepted request's latency and frame are those of an idle core that holds the temperature the
request left, with the next request, where one is held, on its port. -/
theorem duringCycle_after_request {clkHz latency : Nat} {s : State} {i : Instr} (k : Nat) (hc : 0 < clkHz)
    (hs : s.Legal) (hn : NoReset s.inputs) (he : edgeEvent s = .accept i)
    (hheld : heldInputs s.inputs.tail = s.inputs.tail) :
    ∃ t, duringCycle clkHz latency (latency + frameCycles clkHz (segs i s.temp) + k) s =
        duringCycle clkHz latency k t ∧
      t.Legal ∧ t.busy = false ∧ t.inputs = s.inputs.tail ∧ t.temp = tempAfter s.temp i := by
  obtain ⟨u, hu, hul, hun, -, -, htemp, -, hwave⟩ := timedEdge_accept clkHz latency hs hn he
  have hin := timedEdge_inputs_of_accept hu he
  have htime : totalDuration (u.waveform clkHz) = latency + frameCycles clkHz (segs i s.temp) := by rw [hwave]; rfl
  obtain ⟨t, ht, htl, hidle, htin, htt⟩ :=
    duringCycle_after_frame (latency := latency) k hc hul hun (hin.symm ▸ hheld) rfl
  rw [htime] at ht
  exact ⟨t, (duringCycle_of_instant _ hc hs (edgeCycles_of_accept he) hu).trans ht, htl, hidle, htin.trans hin,
    htt.trans htemp⟩

/-- Settles O59: after the first request's frame comes an idle core that accepts the second, and shows its waveform. -/
theorem backToBackGapIsTheLatency : Obligations.BackToBackGapIsTheLatency := by
  intro clkHz latency s i j l hc hs hn he htail k hk
  obtain ⟨u, hu, hul, hidle, hin, htemp⟩ :=
    duringCycle_after_request (latency := latency) k hc hs hn he (by rw [htail]; rfl)
  have haccept : edgeEvent u = .accept j := by
    rw [edgeEvent_of_request hidle (hin.trans htail), decodeReq_encode]
  rw [← htemp] at hk ⊢
  obtain ⟨hline, -⟩ := cycleWaveform clkHz latency u j hc hul (hin ▸ hn.tail) haccept
  obtain ⟨t, ht, hgate, hbusy, htt⟩ := hline k hk
  exact ⟨t, hu.trans ht, hgate, hbusy.trans (decide_eq_true hk), htt⟩

end Sys2Proof.Machine
